-- ==== Sys2Proof/Word.lean ====
section
/-! DEFINITION. The machine's words (spec/00_scope.md R7, R9).

An integer CSR, a command word and a response word are 32 bits; a command operand and a response
data word are 64 bits.  A datapath value is an element of `F`, the set of IEEE 754 binary64 values:
it is held as its 64-bit pattern, in a type of its own so that the arithmetic of bit vectors is never
taken for the arithmetic of binary64 (that is `Machine/Float64.lean`). -/

namespace Sys2Proof

/-- A 32-bit word: an integer CSR, a command word, a response word (R7). -/
abbrev Word32 := BitVec 32

/-- A 64-bit word on a data port (R7, R66). -/
abbrev Word64 := BitVec 64

/-- A binary64 value, as its bit pattern: sign in bit 63, exponent in `[62:52]`, fraction in
`[51:0]` (R66).  Two values are equal when their patterns are: NaN payloads and the sign of a zero
count, as R166 ("the operand's bit pattern unchanged") needs. -/
structure F64 where
  /-- the bit pattern -/
  bits : BitVec 64
deriving DecidableEq, Repr, Inhabited

end Sys2Proof
end

