-- ==== Sys2Proof/Syntax.lean ====
section
/-! DEFINITION. The commands of the block, one constructor of `Instr` per row of
spec/opcode_table.json (spec/30_encoding.md R96, R98), the command triple that carries one, and the
names of the control and status registers (spec/10_state.md R26 to R29). -/

namespace Sys2Proof

/-- What the host presents: a 32-bit command word and two 64-bit data operands (R96, R106). -/
structure Command where
  /-- command word, port `CMD` -/
  cmd : Word32
  /-- first data operand, port `D0` -/
  d0 : Word64
  /-- second data operand, port `D1` -/
  d1 : Word64
deriving DecidableEq, Repr

/-- A host command with the operands it takes (R98).  An operand a command does not take is not part
of the instruction: R96 says such operands are ignored. -/
inductive Instr where
  /-- `NOP` (R251) -/
  | nop
  /-- `RST` (R252) -/
  | rst
  /-- `WRCSR csrn, value` (R253): `value` is all of `D0`; which of its bits count is R99 -/
  | wrcsr (csrn : BitVec 8) (value : Word64)
  /-- `RDCSR csrn` (R254) -/
  | rdcsr (csrn : BitVec 8)
  /-- `CHECK` (R255) -/
  | check
  /-- `OPEN` (R257) -/
  | openStream
  /-- `PUSH I, Q` (R258): the binary64 values on `D0` and `D1` -/
  | push (i q : F64)
  /-- `CLOSE` (R259) -/
  | closeStream
deriving DecidableEq, Repr

/-- The assigned control and status registers, in the order of their numbers (R26 to R29). -/
inductive Csr where
  | fmt | fs | nch | width | lpfen
  | status | ss
  | mod | de | nout | lpfon | difflen | fmgain | agcinc | agcdec | sgain | dep1 | dez1
  | pres | gain | peak | theta | ftrack | fcenter | cosc | sinc | phase | z1i | z1q | perr
deriving DecidableEq, Repr

/-- `ModulationType`, "enumerated variant" in the document's listing order (R91). -/
inductive ModulationType where
  | none | nfm | am | lsb | usb | wfm | wfmNoLowpass | dsb | cw
deriving DecidableEq, Repr

/-- `DeEmphasisType` (R92). -/
inductive DeEmphasisType where
  | none | us50 | us75
deriving DecidableEq, Repr

end Sys2Proof
end

