-- ==== Sys2Proof/WellFormed.lean ====
section
/-! DEFINITION. Which instructions stand for legal command words (spec/30_encoding.md R101).

A command word whose fields are otherwise in order is still illegal when `WRCSR` or `RDCSR` names an
unassigned CSR number.  Nothing else an `Instr` can hold is illegal: R101's other conditions (a
reserved opcode, non-zero reserved bits, `CSRN` on a command that takes none) cannot be written as an
`Instr` and are refused by `Decode.lean`.  Reserved values inside operands (R102) are legal words. -/

namespace Sys2Proof

/-- The numbers of R26 to R29: 0x00 to 0x04, 0x10 to 0x1C, 0x20 to 0x2B. -/
def csrAssigned (n : BitVec 8) : Bool :=
  decide (n.toNat ≤ 0x04) || (decide (0x10 ≤ n.toNat) && decide (n.toNat ≤ 0x1C))
    || (decide (0x20 ≤ n.toNat) && decide (n.toNat ≤ 0x2B))

/-- The instruction's command word is legal (R101). -/
def Instr.wellFormed : Instr → Bool
  | .nop => true
  | .rst => true
  | .wrcsr n _ => csrAssigned n
  | .rdcsr n => csrAssigned n
  | .check => true
  | .openStream => true
  | .push _ _ => true
  | .closeStream => true

end Sys2Proof
end

