-- ==== Sys2Proof/Decode.lean ====
section
/-! DEFINITION. The encodings of spec/30_encoding.md: command words (R96, R98, R101), CSR numbers
(spec/10_state.md R26 to R29), the ordinals of the enumerations (R91, R92) and the format tag
(R90, R95).  The decoder is total on command triples and refuses every illegal word by name. -/

namespace Sys2Proof

/-! ## Fields of the command word (R96) -/

/-- `OP`, bits `[31:28]`. -/
def cmdOp (w : Word32) : BitVec 4 := w.extractLsb' 28 4

/-- `CSRN`, bits `[27:20]`. -/
def cmdCsrn (w : Word32) : BitVec 8 := w.extractLsb' 20 8

/-- Bits `[19:0]`, which must be zero. -/
def cmdZero (w : Word32) : BitVec 20 := w.extractLsb' 0 20

/-- The command word with these fields. -/
def cmdWord (op : BitVec 4) (csrn : BitVec 8) : Word32 := op ++ csrn ++ 0#20

/-! ## Decoding (R98, R101) -/

/-- Why a command word is illegal (R101).  The fourth condition of R101, an unassigned CSR number,
is judged by `WRCSR` and `RDCSR` themselves (R253, R254), with the same answer, `NAK`. -/
inductive DecodeError where
  /-- `OP` is 0x8 to 0xF -/
  | reservedOpcode (op : BitVec 4)
  /-- bits `[19:0]` are not all zero -/
  | reservedBitsSet
  /-- `CSRN` is not zero and the opcode takes none -/
  | csrnNotTaken (csrn : BitVec 8)
deriving DecidableEq, Repr

/-- What the decoder answers: an instruction or a refusal by name. -/
inductive Decoded where
  | instr (i : Instr)
  | illegal (e : DecodeError)
deriving DecidableEq, Repr

/-- A command that takes no CSR number: `CSRN` must be zero (R96). -/
def decodeNoCsr (c : Command) (i : Instr) : Decoded :=
  if cmdCsrn c.cmd = 0#8 then .instr i else .illegal (.csrnNotTaken (cmdCsrn c.cmd))

/-- The decoder (R96, R98).  Operands a command does not take are ignored. -/
def decode (c : Command) : Decoded :=
  if cmdZero c.cmd = 0#20 then
    match (cmdOp c.cmd).toNat with
    | 0x0 => decodeNoCsr c .nop
    | 0x1 => decodeNoCsr c .rst
    | 0x2 => .instr (.wrcsr (cmdCsrn c.cmd) c.d0)
    | 0x3 => .instr (.rdcsr (cmdCsrn c.cmd))
    | 0x4 => decodeNoCsr c .check
    | 0x5 => decodeNoCsr c .openStream
    | 0x6 => decodeNoCsr c (.push ⟨c.d0⟩ ⟨c.d1⟩)
    | 0x7 => decodeNoCsr c .closeStream
    | _ => .illegal (.reservedOpcode (cmdOp c.cmd))
  else .illegal .reservedBitsSet

/-! ## Encoding (R96, R98, R104) -/

/-- The command triple of an instruction; "an operand a command does not take is written as zero"
(R104). -/
def encode : Instr → Command
  | .nop => ⟨cmdWord 0x0#4 0#8, 0#64, 0#64⟩
  | .rst => ⟨cmdWord 0x1#4 0#8, 0#64, 0#64⟩
  | .wrcsr n v => ⟨cmdWord 0x2#4 n, v, 0#64⟩
  | .rdcsr n => ⟨cmdWord 0x3#4 n, 0#64, 0#64⟩
  | .check => ⟨cmdWord 0x4#4 0#8, 0#64, 0#64⟩
  | .openStream => ⟨cmdWord 0x5#4 0#8, 0#64, 0#64⟩
  | .push i q => ⟨cmdWord 0x6#4 0#8, i.bits, q.bits⟩
  | .closeStream => ⟨cmdWord 0x7#4 0#8, 0#64, 0#64⟩

/-! ## The opcode table as data (R98)

The exact patterns of R98, written from the table and not from the fields, so that the decoder can be
held against them. -/

/-- A row: a word `w` selects it when `w &&& mask = pattern`. -/
structure OpcodeRow where
  mnemonic : String
  pattern : Word32
  mask : Word32
deriving DecidableEq, Repr

def opcodeTable : List OpcodeRow :=
  [⟨"NOP", 0x00000000#32, 0xFFFFFFFF#32⟩,
   ⟨"RST", 0x10000000#32, 0xFFFFFFFF#32⟩,
   ⟨"WRCSR", 0x20000000#32, 0xF00FFFFF#32⟩,
   ⟨"RDCSR", 0x30000000#32, 0xF00FFFFF#32⟩,
   ⟨"CHECK", 0x40000000#32, 0xFFFFFFFF#32⟩,
   ⟨"OPEN", 0x50000000#32, 0xFFFFFFFF#32⟩,
   ⟨"PUSH", 0x60000000#32, 0xFFFFFFFF#32⟩,
   ⟨"CLOSE", 0x70000000#32, 0xFFFFFFFF#32⟩]

def OpcodeRow.selects (r : OpcodeRow) (w : Word32) : Bool := decide (w &&& r.mask = r.pattern)

/-- The instruction's mnemonic in the table. -/
def Instr.mnemonic : Instr → String
  | .nop => "NOP"
  | .rst => "RST"
  | .wrcsr _ _ => "WRCSR"
  | .rdcsr _ => "RDCSR"
  | .check => "CHECK"
  | .openStream => "OPEN"
  | .push _ _ => "PUSH"
  | .closeStream => "CLOSE"

/-! ## A table word as a command (the host's numbering of bits) -/

/-- The command whose bits are `w`: bits `[31:0]` are `CMD`, `[95:32]` `D0`, `[159:96]` `D1`; every
bit from `nbits` on is 0. -/
def commandOfBits (nbits w : Nat) : Command :=
  let v := w % 2 ^ nbits
  ⟨BitVec.ofNat 32 v, BitVec.ofNat 64 (v / 2 ^ 32), BitVec.ofNat 64 (v / 2 ^ 96)⟩

/-- The instruction the decoder reads from such a word, `none` where it refuses. -/
def decodeTableWord (nbits w : Nat) : Option Instr :=
  match decode (commandOfBits nbits w) with
  | .instr i => some i
  | .illegal _ => none

/-! ## CSR numbers (R26 to R29) -/

def Csr.number : Csr → BitVec 8
  | .fmt => 0x00#8
  | .fs => 0x01#8
  | .nch => 0x02#8
  | .width => 0x03#8
  | .lpfen => 0x04#8
  | .status => 0x10#8
  | .ss => 0x11#8
  | .mod => 0x12#8
  | .de => 0x13#8
  | .nout => 0x14#8
  | .lpfon => 0x15#8
  | .difflen => 0x16#8
  | .fmgain => 0x17#8
  | .agcinc => 0x18#8
  | .agcdec => 0x19#8
  | .sgain => 0x1A#8
  | .dep1 => 0x1B#8
  | .dez1 => 0x1C#8
  | .pres => 0x20#8
  | .gain => 0x21#8
  | .peak => 0x22#8
  | .theta => 0x23#8
  | .ftrack => 0x24#8
  | .fcenter => 0x25#8
  | .cosc => 0x26#8
  | .sinc => 0x27#8
  | .phase => 0x28#8
  | .z1i => 0x29#8
  | .z1q => 0x2A#8
  | .perr => 0x2B#8

/-- Every assigned CSR. -/
def Csr.all : List Csr :=
  [.fmt, .fs, .nch, .width, .lpfen, .status, .ss, .mod, .de, .nout, .lpfon, .difflen, .fmgain,
   .agcinc, .agcdec, .sgain, .dep1, .dez1, .pres, .gain, .peak, .theta, .ftrack, .fcenter, .cosc,
   .sinc, .phase, .z1i, .z1q, .perr]

/-- The CSR with this number, if the number is assigned. -/
def Csr.ofNumber (n : BitVec 8) : Option Csr := Csr.all.find? (fun c => c.number == n)

/-! ## Ordinals (R91, R92) -/

def ModulationType.ordinal : ModulationType → BitVec 4
  | .none => 0#4
  | .nfm => 1#4
  | .am => 2#4
  | .lsb => 3#4
  | .usb => 4#4
  | .wfm => 5#4
  | .wfmNoLowpass => 6#4
  | .dsb => 7#4
  | .cw => 8#4

/-- The modulation with this ordinal; 9 to 15 are reserved (R91). -/
def ModulationType.ofOrdinal (n : BitVec 4) : Option ModulationType :=
  match n.toNat with
  | 0 => some .none
  | 1 => some .nfm
  | 2 => some .am
  | 3 => some .lsb
  | 4 => some .usb
  | 5 => some .wfm
  | 6 => some .wfmNoLowpass
  | 7 => some .dsb
  | 8 => some .cw
  | _ => Option.none

/-- The flag bits `DEF` of a de-emphasis type (R92). -/
def DeEmphasisType.flags : DeEmphasisType → BitVec 2
  | .none => 0#2
  | .us50 => 1#2
  | .us75 => 2#2

/-- The de-emphasis type with these flag bits; both set is reserved (R92). -/
def DeEmphasisType.ofFlags (n : BitVec 2) : Option DeEmphasisType :=
  match n.toNat with
  | 0 => some .none
  | 1 => some .us50
  | 2 => some .us75
  | _ => Option.none

/-! ## The format tag (R90, R93, R95) -/

/-- `MODF`, tag bits `[11:8]`. -/
abbrev tagModf (tag : Word32) : BitVec 4 := tag.extractLsb' 8 4

/-- `DEF`, tag bits `[5:4]`. -/
abbrev tagDef (tag : Word32) : BitVec 2 := tag.extractLsb' 4 2

/-- `CONT`, every other bit of the tag, in place. -/
abbrev tagCont (tag : Word32) : Word32 := tag &&& 0xFFFFF0CF#32

/-- `pack(mod, de, cont)` of R95. -/
def packTag (mod : BitVec 4) (de : BitVec 2) (cont : Word32) : Word32 :=
  (cont &&& 0xFFFFF0CF#32) ||| (mod.setWidth 32 <<< 8) ||| (de.setWidth 32 <<< 4)

/-- `unpack(tag)` of R95. -/
def unpackTag (tag : Word32) : BitVec 4 × BitVec 2 × Word32 :=
  (tagModf tag, tagDef tag, tagCont tag)

end Sys2Proof
end

