-- ==== Sys2Proof/Config.lean ====
section
/-! DEFINITION. What the model takes as arguments (spec/00_scope.md R5, R6, R9, R10).

`Arith F` is the arithmetic of datapath values and `Num F` the record `NUM` of functions that the
hardware implements in a way the source does not give.  Both are records over the type `F` of values,
because R10 allows two instances of every formula: binary64 (`Machine/Float64.lean`, the machine) and
the real numbers (`Machine/Ideal.lean`, "the ideal instance").  `Params F` collects the constants of
R5 and the open parameters of R6.  The `opaque` constants below are the machine's open parameters:
they have no body, so nothing proved of the machine rests on a value of one. -/

namespace Sys2Proof

/-- The operations on datapath values that R9 names, and the literals of the pseudocode. -/
structure Arith (F : Type) where
  /-- `+0.0` -/
  zero : F
  /-- `1.0` -/
  one : F
  /-- `PI` (R9) -/
  pi : F
  /-- `TWO_PI = 2 * PI` (R9) -/
  twoPi : F
  /-- the literal `n / d`: the value nearest to it (R104) -/
  lit : Nat → Nat → F
  /-- `f64(n)` for an unsigned 32-bit `n` (R9) -/
  ofNat : Nat → F
  /-- `a + b` -/
  add : F → F → F
  /-- `a - b` -/
  sub : F → F → F
  /-- `a * b` -/
  mul : F → F → F
  /-- `a / b` -/
  div : F → F → F
  /-- `sqrt(a)` -/
  sqrt : F → F
  /-- `abs(a)` -/
  abs : F → F
  /-- `a < b`, false on a NaN -/
  lt : F → F → Bool
  /-- `a <= b`, false on a NaN -/
  le : F → F → Bool
  /-- `wrap(t)` of R188, the mathematical one (D28) -/
  wrap : F → F

/-- The numerics record `NUM` (R9): "the model assumes of each only that it is a total function of
its operands". -/
structure Num (F : Type) where
  /-- `NUM.ARG(im, re)` -/
  arg : F → F → F
  /-- `NUM.SIN(x)` -/
  sin : F → F
  /-- `NUM.COS(x)` -/
  cos : F → F
  /-- `NUM.EXP(x)` -/
  exp : F → F
  /-- `NUM.POW10(x)` -/
  pow10 : F → F

/-- Biquad coefficients `c = (b0, b1, b2, a1, a2)` (R120). -/
structure Biquad (F : Type) where
  b0 : F
  b1 : F
  b2 : F
  a1 : F
  a2 : F
deriving DecidableEq, Repr, Inhabited

/-- The constants the document fixes (R5), "from one configuration record".  Rates that are compared
with the integer `FS` (R14) are numbers; the others are datapath values. -/
structure Consts (F : Type) where
  /-- `P_DIFF_RATE` -/
  diffRate : Nat
  /-- `P_DIFF_LEN_HI` -/
  diffLenHi : BitVec 5
  /-- `P_DIFF_LEN_LO` -/
  diffLenLo : BitVec 5
  /-- `P_GAIN_TRIM` -/
  gainTrim : F
  /-- `P_FM_COMP_RATE` -/
  fmCompRate : Nat
  /-- `P_AM_SCALE` -/
  amScale : F
  /-- `P_PILOT_MAX_GAIN` -/
  pilotMaxGain : F
  /-- `P_STABLE_LO` -/
  stableLo : F
  /-- `P_STABLE_HI` -/
  stableHi : F
  /-- `P_AGC_UP_DBPS` -/
  agcUpDbps : F
  /-- `P_AGC_DOWN_DBPS` -/
  agcDownDbps : F
  /-- `P_SIDE_SCALING` -/
  sideScaling : F
  /-- `P_PLL_K` -/
  pllK : F
  /-- `P_PILOT_HZ` -/
  pilotHz : F
  /-- `P_WFM_MIN_RATE` -/
  wfmMinRate : Nat
  /-- `P_TAU_50`, in microseconds -/
  tau50 : F
  /-- `P_TAU_75`, in microseconds -/
  tau75 : F
  /-- `P_DEE_DIV` -/
  deeDiv : F

/-- The parameter record of the model.  The lengths that R6 constrains are held so that a value
outside the constraint cannot be written (V19): `MPX_L = 2 * dlyD + 1` is odd and at least 1 (D21),
`LPF_M = lpfOrder + 1` is at least 1, and each coefficient vector carries its length. -/
structure Params (F : Type) where
  /-- the constants of R5 -/
  consts : Consts F
  /-- `NUM` -/
  num : Num F
  /-- `KERNEL_19` -/
  kernel19 : Vector F 19
  /-- `KERNEL_9` -/
  kernel9 : Vector F 9
  /-- `DLY_D`, the position of the centre tap (R131) -/
  dlyD : Nat
  /-- `H_PILOT` -/
  hPilot : Vector F (2 * dlyD + 1)
  /-- `H_SIDE` -/
  hSide : Vector F (2 * dlyD + 1)
  /-- `LPF_M - 1` -/
  lpfOrder : Nat
  /-- `H_LPF` -/
  hLpf : Vector F (lpfOrder + 1)
  /-- `LF1` -/
  lf1 : Biquad F
  /-- `LF2` -/
  lf2 : Biquad F
  /-- `DEE_B1_IS_Z1` (R177, D30) -/
  deeB1IsZ1 : Bool

/-- Which operation delivered a NaN (see `Config.nanBits`). -/
inductive FloatOp where
  | add | sub | mul | div | sqrt | wrap
deriving DecidableEq, Repr

/-- Byte orders, for what a host stores outside the block (R66). -/
inductive Endian where
  | little | big
deriving DecidableEq, Repr, Inhabited

/-! ## The open parameters of the machine (R6, D6, D21, D24, D30, D33)

UNCONSTRAINED: the spec gives no value of any of them, so none has a body here. -/

/-- `NUM.ARG` of the hardware: a total function, nothing else (R9, V11; log entry 1). -/
opaque Config.numArg : F64 → F64 → F64

/-- `NUM.SIN` of the hardware (R9, V11; log entry 1). -/
opaque Config.numSin : F64 → F64

/-- `NUM.COS` of the hardware (R9, V11; log entry 1). -/
opaque Config.numCos : F64 → F64

/-- `NUM.EXP` of the hardware (R9, V11; log entry 1). -/
opaque Config.numExp : F64 → F64

/-- `NUM.POW10` of the hardware (R9, V11; log entry 1). -/
opaque Config.numPow10 : F64 → F64

/-- `KERNEL_19` (R6, R140; log entry 2). -/
opaque Config.kernel19 : Vector F64 19

/-- `KERNEL_9` (R6, R140; log entry 2). -/
opaque Config.kernel9 : Vector F64 9

/-- `DLY_D = (MPX_L - 1) / 2`: the half length of the MPX filters (R6, R131, D21; log entry 2). -/
opaque Config.dlyD : Nat

/-- `H_PILOT` (R6; log entry 2). -/
opaque Config.hPilot : Vector F64 (2 * Config.dlyD + 1)

/-- `H_SIDE` (R6; log entry 2). -/
opaque Config.hSide : Vector F64 (2 * Config.dlyD + 1)

/-- `LPF_M - 1` (R6, D24; log entry 2). -/
opaque Config.lpfOrder : Nat

/-- `H_LPF` (R6, D24; log entry 2). -/
opaque Config.hLpf : Vector F64 (Config.lpfOrder + 1)

/-- `LF1` (R6, R190; log entry 2). -/
opaque Config.lf1 : Biquad F64

/-- `LF2` (R6, R190; log entry 2). -/
opaque Config.lf2 : Biquad F64

/-- `DEE_B1_IS_Z1` (R177, D30; log entry 3). -/
opaque Config.deeB1IsZ1 : Bool

/-- `SER_ENDIAN` (R6, R66, D33): used outside the block only (log entry 2). -/
opaque Config.serEndian : Endian

/-- FREE VALUE: the sign and the payload of the NaN that an operation delivers, as a function of the
operation and its operands' patterns.  R9 takes the operations from IEEE 754, which fixes that the
result is a quiet NaN and leaves its sign and payload open (log entry 4). -/
opaque Config.nanBits : FloatOp → BitVec 64 → BitVec 64 → BitVec 64

end Sys2Proof
end

