-- ==== Sys2Proof/Machine/Float64.lean ====
section
/-! DEFINITION. IEEE 754 binary64 arithmetic with round-to-nearest-ties-to-even and no trap
(spec/00_scope.md R9, decision D5).

Every finite binary64 value is an integer multiple of the least positive one, `2 ^ -1074`.  A finite
value is therefore taken to the integer that counts those units, the operation is done exactly on
integers, and the exact result is rounded ONCE, by `F64.roundMag`. -/

namespace Sys2Proof

/-- The bit pattern of `+infinity`, as a number: every magnitude above it is a NaN's. -/
def F64.infMag : Nat := 0x7FF0000000000000

/-- `2 ^ 1074`: how many units of the least positive binary64 value make 1. -/
@[irreducible] def F64.unitsPerOne : Nat := 2 ^ 1074

/-- The sign bit (R66). -/
def F64.sign (x : F64) : Bool := x.bits.getLsbD 63

/-- The pattern without its sign bit, as a number. -/
def F64.mag (x : F64) : Nat := x.bits.toNat % 2 ^ 63

def F64.isNaN (x : F64) : Bool := decide (F64.infMag < x.mag)

def F64.isInf (x : F64) : Bool := decide (x.mag = F64.infMag)

def F64.isFinite (x : F64) : Bool := decide (x.mag < F64.infMag)

def F64.isZero (x : F64) : Bool := decide (x.mag = 0)

/-- The value with this sign and this magnitude pattern. -/
def F64.ofMag (neg : Bool) (m : Nat) : F64 :=
  ⟨BitVec.ofNat 64 (m + if neg then 2 ^ 63 else 0)⟩

/-- The magnitude of a finite value in units of `2 ^ -1074`. -/
def F64.units (x : F64) : Nat :=
  let e := x.mag / 2 ^ 52
  let f := x.mag % 2 ^ 52
  if e = 0 then f else (2 ^ 52 + f) * 2 ^ (e - 1)

/-- A finite value in units of `2 ^ -1074`. -/
def F64.toInt (x : F64) : Int :=
  if x.sign then -(x.units : Int) else (x.units : Int)

/-- The magnitude pattern nearest to `num / den` units, ties to the even pattern, infinity from
halfway above the largest finite value on.  `k` is the exponent of the result's last place. -/
@[irreducible] def F64.roundMag (num den : Nat) : Nat :=
  let k := Nat.log2 (num / den) - 52
  let d := den * 2 ^ k
  let q := num / d
  let r := num % d
  let up := decide (d < 2 * r) || (decide (2 * r = d) && decide (q % 2 = 1))
  min (k * 2 ^ 52 + (if up then q + 1 else q)) F64.infMag

/-- The NaN an operation delivers: quiet, its sign and payload free (log entry 4). -/
def F64.nanResult (op : FloatOp) (a b : F64) : F64 :=
  ⟨Config.nanBits op a.bits b.bits ||| 0x7FF8000000000000#64⟩

/-- The value nearest to an exact number of units; an exact zero is `+0.0`. -/
def F64.ofInt (v : Int) : F64 := F64.ofMag (decide (v < 0)) (F64.roundMag v.natAbs 1)

/-- The literal `n / d`: the value nearest to it (R104). -/
def F64.lit (n d : Nat) : F64 := F64.ofMag false (F64.roundMag (n * F64.unitsPerOne) d)

/-- `f64(n)` (R9). -/
def F64.ofNat (n : Nat) : F64 := F64.lit n 1

def F64.neg (x : F64) : F64 := ⟨x.bits ^^^ 0x8000000000000000#64⟩

/-- `abs(a)` "clears the sign bit" (R9). -/
def F64.abs (x : F64) : F64 := ⟨x.bits &&& 0x7FFFFFFFFFFFFFFF#64⟩

/-- The sum of two values that are not NaNs and not infinities of opposite signs.  An exact zero sum
is `+0.0` but for `-0.0 + -0.0`. -/
def F64.addNumbers (a b : F64) : F64 :=
  if a.isInf then a
  else if b.isInf then b
  else
    let v := a.toInt + b.toInt
    if v = 0 then F64.ofMag (a.sign && b.sign) 0 else F64.ofInt v

/-- `a + b` (R9). -/
@[irreducible] def F64.add (a b : F64) : F64 :=
  if a.isNaN || b.isNaN || (a.isInf && b.isInf && (a.sign != b.sign)) then F64.nanResult .add a b
  else F64.addNumbers a b

/-- `a - b` (R9). -/
@[irreducible] def F64.sub (a b : F64) : F64 :=
  if a.isNaN || b.isNaN || (a.isInf && b.isInf && (a.sign == b.sign)) then F64.nanResult .sub a b
  else F64.addNumbers a b.neg

/-- `a * b` (R9). -/
@[irreducible] def F64.mul (a b : F64) : F64 :=
  if a.isNaN || b.isNaN || (a.isInf && b.isZero) || (a.isZero && b.isInf) then
    F64.nanResult .mul a b
  else
    F64.ofMag (a.sign != b.sign)
      (if a.isInf || b.isInf then F64.infMag
       else F64.roundMag (a.units * b.units) F64.unitsPerOne)

/-- `a / b` (R9). -/
@[irreducible] def F64.div (a b : F64) : F64 :=
  if a.isNaN || b.isNaN || (a.isInf && b.isInf) || (a.isZero && b.isZero) then
    F64.nanResult .div a b
  else
    F64.ofMag (a.sign != b.sign)
      (if a.isInf || b.isZero then F64.infMag
       else if b.isInf then 0
       else F64.roundMag (a.units * F64.unitsPerOne) b.units)

/-- The largest `s` with `s * s <= n`, found bit by bit from bit `fuel - 1` down. -/
def F64.isqrtFrom (n : Nat) : Nat → Nat → Nat
  | 0, s => s
  | k + 1, s =>
    F64.isqrtFrom n k (if (s + 2 ^ k) * (s + 2 ^ k) ≤ n then s + 2 ^ k else s)

/-- The root of a positive finite value.  With `units = m * 2 ^ e` and `m < 2 ^ 53`, the root in
units is `sqrt (m * 2 ^ (e + 1074))`; its first 55 bits or more are taken exactly and one more bit
says whether anything is left over, which is all that one rounding needs. -/
def F64.sqrtMag (x : F64) : Nat :=
  let e := x.mag / 2 ^ 52 - 1
  let m := x.units / 2 ^ e
  let p := 108 + e % 2
  let n := m * 2 ^ p
  let s := F64.isqrtFrom n 82 0
  let sticky := if s * s = n then 0 else 1
  F64.roundMag ((2 * s + sticky) * 2 ^ ((e + 1074 - p) / 2)) 2

/-- `sqrt(a)` (R9). -/
@[irreducible] def F64.sqrt (a : F64) : F64 :=
  if a.isNaN then F64.nanResult .sqrt a a
  else if a.isZero then a
  else if a.sign then F64.nanResult .sqrt a a
  else if a.isInf then a
  else F64.ofMag false a.sqrtMag

/-- A number ordered as the values are, the two zeros equal (for values that are not NaNs). -/
def F64.key (x : F64) : Int := if x.sign then -(x.mag : Int) else (x.mag : Int)

/-- `a < b`, quiet: false whenever either operand is a NaN (R9). -/
def F64.lt (a b : F64) : Bool := !a.isNaN && !b.isNaN && decide (a.key < b.key)

/-- `a <= b`, quiet (R9). -/
def F64.le (a b : F64) : Bool := !a.isNaN && !b.isNaN && decide (a.key ≤ b.key)

/-- `PI` (R9). -/
def F64.pi : F64 := ⟨0x400921FB54442D18#64⟩

/-- `TWO_PI` (R9). -/
def F64.twoPi : F64 := ⟨0x401921FB54442D18#64⟩

/-- `wrap(t)` (R188): the unique value congruent to `t` modulo `TWO_PI` in `(-PI, PI]`, taken exactly
and not by repeated rounded subtractions (D28: "the mathematical one"; log entry 5).  A NaN stays
itself, since "the loops of `wrap` are skipped for a NaN"; an infinity gives a NaN. -/
@[irreducible] def F64.wrap (t : F64) : F64 :=
  if t.isNaN then t
  else if t.isInf then F64.nanResult .wrap t t
  else
    let turns := -((F64.pi.toInt - t.toInt) / F64.twoPi.toInt)
    if turns = 0 then t else F64.ofInt (t.toInt - turns * F64.twoPi.toInt)

/-- The binary64 arithmetic of the machine (R9, D5). -/
def Machine.f64 : Arith F64 where
  zero := ⟨0x0000000000000000#64⟩
  one := ⟨0x3FF0000000000000#64⟩
  pi := F64.pi
  twoPi := F64.twoPi
  lit := F64.lit
  ofNat := F64.ofNat
  add := F64.add
  sub := F64.sub
  mul := F64.mul
  div := F64.div
  sqrt := F64.sqrt
  abs := F64.abs
  lt := F64.lt
  le := F64.le
  wrap := F64.wrap

end Sys2Proof
end

