-- ==== Sys2Proof/Machine/Parameters.lean ====
section
/-! DEFINITION. The machine's parameter record: the document's constants (spec/00_scope.md R5, R216)
as binary64 values, and the open parameters of `Config.lean`. -/

namespace Sys2Proof.Machine

/-- The constants of R5.  A datapath constant is the binary64 value nearest to the document's decimal
literal; R165, R216 and spec/95_test_vectors.md print several of these patterns. -/
def documentConsts : Consts F64 where
  diffRate := 248000
  diffLenHi := 19#5
  diffLenLo := 9#5
  gainTrim := ⟨0x3FF199999999999A#64⟩        -- 1.1
  fmCompRate := 300000
  amScale := ⟨0x3FE6A0902DE00D1B#64⟩         -- 0.7071
  pilotMaxGain := ⟨0x402E000000000000#64⟩    -- 15.0
  stableLo := ⟨0x3FEE666666666666#64⟩        -- 0.95
  stableHi := ⟨0x3FF0CCCCCCCCCCCD#64⟩        -- 1.05
  agcUpDbps := ⟨0x4050000000000000#64⟩       -- 64.0
  agcDownDbps := ⟨0xC028000000000000#64⟩     -- 0.0 - 12.0
  sideScaling := ⟨0x4014000000000000#64⟩     -- 5.0
  pllK := ⟨0x4024000000000000#64⟩            -- 10.0
  pilotHz := ⟨0x40D28E0000000000#64⟩         -- 19000.0
  wfmMinRate := 116000
  tau50 := ⟨0x4049000000000000#64⟩           -- 50.0
  tau75 := ⟨0x4052C00000000000#64⟩           -- 75.0
  deeDiv := ⟨0x4014000000000000#64⟩          -- 5.0

/-- `NUM` of the machine: five total functions of which nothing else is assumed (R9, D6). -/
def hardwareNum : Num F64 where
  arg := Config.numArg
  sin := Config.numSin
  cos := Config.numCos
  exp := Config.numExp
  pow10 := Config.numPow10

/-- The parameters the machine runs with. -/
def params : Params F64 where
  consts := documentConsts
  num := hardwareNum
  kernel19 := Config.kernel19
  kernel9 := Config.kernel9
  dlyD := Config.dlyD
  hPilot := Config.hPilot
  hSide := Config.hSide
  lpfOrder := Config.lpfOrder
  hLpf := Config.hLpf
  lf1 := Config.lf1
  lf2 := Config.lf2
  deeB1IsZ1 := Config.deeB1IsZ1

end Sys2Proof.Machine

namespace Sys2Proof

variable {F : Type}

/-- `MPX_L`, odd (R6, D21). -/
def Params.mpxL (P : Params F) : Nat := 2 * P.dlyD + 1

/-- `LPF_M`, at least 1 (R6). -/
def Params.lpfM (P : Params F) : Nat := P.lpfOrder + 1

end Sys2Proof
end

