-- ==== Sys2Proof/Machine/Registers.lean ====
section
/-! DEFINITION. The registers and ring buffers of one stream, unit by unit (spec/10_state.md R28 to
R37), over a type `F` of datapath values, with the reset values of R40.

A ring's elements are held as a list of `(index, value)` pairs in ONE canonical form, `Memory.wf`:
indices strictly rising, and no entry equal to the `+0.0` that an unlisted element reads as, which is
the reset content R37 gives.  Equal contents are therefore equal lists, and a ring after reset is the
empty list whatever its length, so that the open length `MPX_L` does not enter the state. -/

namespace Sys2Proof.Machine

variable {F : Type}

/-! ## Ring buffers (R37, R60, R61) -/

/-- The elements of one ring buffer: index and 64-bit element. -/
abbrev Memory (F : Type) := List (Nat × F)

/-- Read element `i`; an unlisted element holds the reset value `+0.0` (R37, R40). -/
def Memory.read (A : Arith F) : Memory F → Nat → F
  | [], _ => A.zero
  | (a, v) :: rest, i => if a = i then v else Memory.read A rest i

/-- Write element `i`, keeping the canonical form. -/
def Memory.write [DecidableEq F] (A : Arith F) (i : Nat) (v : F) : Memory F → Memory F
  | [] => if v = A.zero then [] else [(i, v)]
  | (a, u) :: rest =>
    if i < a then (if v = A.zero then (a, u) :: rest else (i, v) :: (a, u) :: rest)
    else if i = a then (if v = A.zero then rest else (i, v) :: rest)
    else (a, u) :: Memory.write A i v rest

/-- The canonical form, for a ring of length `n`: indices strictly rising and below `n`, no element
listed that holds `+0.0`. -/
def Memory.wf [DecidableEq F] (A : Arith F) (n : Nat) : Memory F → Bool
  | [] => true
  | (a, v) :: rest =>
    decide (a < n) && decide (v ≠ A.zero) && rest.all (fun e => decide (a < e.1))
      && Memory.wf A n rest

/-- A ring buffer: its elements and its write index (R37). -/
structure Ring (F : Type) where
  /-- the elements -/
  mem : Memory F
  /-- the write index -/
  w : Nat
deriving DecidableEq, Repr

/-- All elements `+0.0`, index 0 (R40). -/
def Ring.reset : Ring F := ⟨[], 0⟩

/-! ## Scalar datapath registers -/

/-- The state `(z1, z2)` of a biquad section (R121). -/
structure BiqState (F : Type) where
  z1 : F
  z2 : F
deriving DecidableEq, Repr

/-- FM demodulator registers (R30). -/
structure FmdRegs (F : Type) where
  /-- `Z1I` -/
  z1i : F
  /-- `Z1Q` -/
  z1q : F
  /-- `PHASE` -/
  phase : F
deriving DecidableEq, Repr

/-- PilotPresence (R25, R31). -/
inductive PilotPresence where
  | unknown | present | notPresent
deriving DecidableEq, Repr

/-- AGC registers (R31). -/
structure AgcRegs (F : Type) where
  /-- `GAIN` -/
  gain : F
  /-- `PEAK` -/
  peak : F
  /-- `PRES` -/
  pres : PilotPresence
deriving DecidableEq, Repr

/-- NCO registers (R32, R39). -/
structure NcoRegs (F : Type) where
  /-- `THETA` -/
  theta : F
  /-- `FCENTER` -/
  fcenter : F
  /-- `FTRACK` -/
  ftrack : F
  /-- `COSC` -/
  cosc : F
  /-- `SINC` -/
  sinc : F
deriving DecidableEq, Repr

/-- Pilot phase detector registers (R33). -/
structure PpdRegs (F : Type) where
  /-- `LF1Z1`, `LF1Z2` -/
  lf1 : BiqState F
  /-- `LF2Z1`, `LF2Z2` -/
  lf2 : BiqState F
  /-- `PERR` -/
  perr : F
deriving DecidableEq, Repr

/-- De-emphasis registers, one biquad state per channel (R34). -/
structure DeeRegs (F : Type) where
  /-- `DELZ1`, `DELZ2` -/
  l : BiqState F
  /-- `DERZ1`, `DERZ2` -/
  r : BiqState F
deriving DecidableEq, Repr

/-- The per-stream state of R20 (d) and (e): the scalar datapath registers and the ring buffers. -/
structure Datapath (F : Type) where
  fmd : FmdRegs F
  agc : AgcRegs F
  nco : NcoRegs F
  ppd : PpdRegs F
  dee : DeeRegs F
  /-- `PH`, `PHW`: the phase history -/
  ph : Ring F
  /-- `DL`, `DLW`: the delay line -/
  dl : Ring F
  /-- `PBH`, `PBW`: history of the pilot band-pass -/
  pbh : Ring F
  /-- `SBH`, `SBW`: history of the subcarrier band-pass -/
  sbh : Ring F
  /-- `LLH`, `LLW`: history of the left final lowpass -/
  llh : Ring F
  /-- `LRH`, `LRW`: history of the right final lowpass -/
  lrh : Ring F
deriving DecidableEq, Repr

/-- The derived configuration latched by `OPEN` (R28). -/
structure Derived (F : Type) where
  /-- `MOD` -/
  mod : BitVec 4
  /-- `DE` -/
  de : BitVec 2
  /-- `NOUT` -/
  nout : BitVec 2
  /-- `LPFON` -/
  lpfon : Bool
  /-- `DIFFLEN` -/
  difflen : BitVec 5
  /-- `FMGAIN` -/
  fmgain : F
  /-- `AGCINC` -/
  agcinc : F
  /-- `AGCDEC` -/
  agcdec : F
  /-- `SGAIN` -/
  sgain : F
  /-- `DEP1` -/
  dep1 : F
  /-- `DEZ1` -/
  dez1 : F
deriving DecidableEq, Repr

/-- What a unit operation may read of the configuration while the stream is open: the latched values
of R28, and `FS` and `WIDTH`, which R35 and R188 read every sample. -/
structure Setup (F : Type) where
  /-- `FS` -/
  fs : Word32
  /-- `WIDTH` -/
  width : F
  /-- the latched values -/
  derived : Derived F
deriving DecidableEq, Repr

/-! ## Reset values (R40) -/

def BiqState.reset (A : Arith F) : BiqState F := ⟨A.zero, A.zero⟩

def FmdRegs.reset (A : Arith F) : FmdRegs F := ⟨A.zero, A.zero, A.zero⟩

def AgcRegs.reset (A : Arith F) : AgcRegs F := ⟨A.one, A.zero, .unknown⟩

/-- `FCENTER` and `FTRACK` reset to the pilot frequency, `COSC` and `SINC` to the cosine and sine of
the reset `THETA` (R32). -/
def NcoRegs.reset (A : Arith F) (K : Consts F) : NcoRegs F :=
  ⟨A.zero, K.pilotHz, K.pilotHz, A.one, A.zero⟩

def PpdRegs.reset (A : Arith F) : PpdRegs F := ⟨BiqState.reset A, BiqState.reset A, A.zero⟩

def DeeRegs.reset (A : Arith F) : DeeRegs F := ⟨BiqState.reset A, BiqState.reset A⟩

/-- Every scalar datapath register, ring element and ring index at its reset value: what `OPEN`,
`CLOSE` and `RST` write (R40, D18). -/
def Datapath.reset (A : Arith F) (K : Consts F) : Datapath F where
  fmd := FmdRegs.reset A
  agc := AgcRegs.reset A
  nco := NcoRegs.reset A K
  ppd := PpdRegs.reset A
  dee := DeeRegs.reset A
  ph := Ring.reset
  dl := Ring.reset
  pbh := Ring.reset
  sbh := Ring.reset
  llh := Ring.reset
  lrh := Ring.reset

/-- Every derived configuration CSR at its reset value (R28, R40). -/
def Derived.reset (A : Arith F) : Derived F where
  mod := 0#4
  de := 0#2
  nout := 0#2
  lpfon := false
  difflen := 0#5
  fmgain := A.zero
  agcinc := A.zero
  agcdec := A.zero
  sgain := A.zero
  dep1 := A.zero
  dez1 := A.zero

end Sys2Proof.Machine
end

