-- ==== Sys2Proof/Machine/State.lean ====
section
/-! DEFINITION. The state of one `RSCORE` instance (spec/10_state.md R20), the reasons a step can
stop, and the state after reset (R40). -/

namespace Sys2Proof.Machine

/-- Stream state `SS` (R25, R27, R250). -/
inductive StreamState where
  | closed | opened
deriving DecidableEq, Repr

/-- Status codes (R25, R281); codes 4 to 7 are never produced. -/
inductive Status where
  | ok | unrecognizedFormat | sampleRateTooLow | channelCountMismatch
deriving DecidableEq, Repr

/-- A response: the words on the ports `RSP`, `V0`, `V1` (R97, R106). -/
structure Response where
  rsp : Word32
  v0 : Word64
  v1 : Word64
deriving DecidableEq, Repr

/-- What the host can do to the block: present a command, or assert the `rst` pin (R13, R106, R310). -/
inductive PortEvent where
  | command (c : Command)
  | resetPin
deriving DecidableEq, Repr

/-- The transaction-level ports (R106) and the two streams (R38).  This is the MODEL's own record, not
state of R20: what the host has presented and not yet had performed, the words last answered, and
the samples delivered so far (log entry 6). -/
structure HostPort where
  /-- what the host presents, in arrival order, the first next (R13, R70) -/
  pending : List PortEvent
  /-- the last response (R97) -/
  response : Response
  /-- the output stream: every sample delivered, oldest first (R38, R64) -/
  output : List F64
deriving DecidableEq, Repr

/-- The state (R20): the configuration CSRs (R26), the status CSRs (R27), the latched derived
configuration (R28), and the datapath registers and rings (R30 to R37); and the ports. -/
structure State where
  /-- `FMT` -/
  fmt : Word32
  /-- `FS` -/
  fs : Word32
  /-- `NCH` -/
  nch : Word32
  /-- `WIDTH` -/
  width : F64
  /-- `LPFEN`, bit 0: the other bits read as zero (R26) -/
  lpfen : Bool
  /-- `STATUS` -/
  status : Status
  /-- `SS` -/
  ss : StreamState
  /-- `MOD` to `DEZ1` -/
  derived : Derived F64
  /-- the per-stream registers and rings -/
  dp : Datapath F64
  /-- the ports and the streams -/
  port : HostPort
deriving DecidableEq, Repr

/-- Why a step stops with a fault: never.  The spec reports every error as a status with the response
`ERR` and raises none in mid-stream (R280, R287, U12), so both are next states and this type is
empty.  SAFE: no run is cut short. -/
inductive Fault where
deriving DecidableEq, Repr

/-- Why a step is refused by the model.  The block's own refusal `NAK` is a response, so a next state,
and is none of these (log entry 7). -/
inductive Refusal where
  /-- an instruction that has no meaning in the model; no arm of `exec` answers it.  SAFE. -/
  | notModelled (mnemonic : String)
  /-- raised by `PUSH` in a state that is open with a latched modulation that has no demodulation
  rule.  R256 lets no such value be latched, and R167 gives such a stream no step, so no run reaches
  it.  SAFE. -/
  | noDemodulationRule (mod : BitVec 4)
deriving DecidableEq, Repr

/-- Ports after power-on: nothing presented, nothing delivered, response words zero (log entry 8). -/
def HostPort.reset : HostPort := ⟨[], ⟨0#32, 0#64, 0#64⟩, []⟩

/-- The machine right after reset (R40). -/
def State.reset : State where
  fmt := 0#32
  fs := 0#32
  nch := 0#32
  width := ⟨0x3FF0000000000000#64⟩
  lpfen := true
  status := .ok
  ss := .closed
  derived := Derived.reset f64
  dp := Datapath.reset f64 documentConsts
  port := HostPort.reset

end Sys2Proof.Machine
end

