-- ==== Sys2Proof/Machine/Flags.lean ====
section
/-! DEFINITION. The three flag-like pieces of state as numbers (spec/10_state.md R25), the fields of
the response word (spec/30_encoding.md R97), and the tests on the modulation field that the facade
makes (spec/47_facade_commands.md R256). -/

namespace Sys2Proof.Machine

/-- `PRES`: 0 `Unknown`, 1 `Present`, 2 `NotPresent` (R25). -/
def PilotPresence.code : PilotPresence → BitVec 2
  | .unknown => 0#2
  | .present => 1#2
  | .notPresent => 2#2

/-- `SS`: 0 `Closed`, 1 `Open` (R25). -/
def StreamState.code : StreamState → BitVec 1
  | .closed => 0#1
  | .opened => 1#1

/-- `STATUS` (R25, R281). -/
def Status.code : Status → BitVec 3
  | .ok => 0#3
  | .unrecognizedFormat => 1#3
  | .sampleRateTooLow => 2#3
  | .channelCountMismatch => 3#3

/-- Response kinds (R97); 3 is never produced. -/
inductive ResponseKind where
  | ack | err | nak
deriving DecidableEq, Repr

/-- `KIND` (R97). -/
def ResponseKind.code : ResponseKind → BitVec 2
  | .ack => 0#2
  | .err => 1#2
  | .nak => 2#2

/-- The response word: `KIND` in `[1:0]`, `COUNT` in `[3:2]`, zero above (R97). -/
def rspWord (kind : ResponseKind) (count : BitVec 2) : Word32 := 0#28 ++ count ++ kind.code

/-- `KIND` of a response word. -/
def rspKind (w : Word32) : BitVec 2 := w.extractLsb' 0 2

/-- `COUNT` of a response word: the samples in `V0`, `V1`. -/
def rspCount (w : Word32) : BitVec 2 := w.extractLsb' 2 2

/-- `mod in {5, 6}`: `WFM` and `WFM_NO_LOWPASS` (R256, D37). -/
def isWfmTag (mod : BitVec 4) : Bool := decide (mod = 5#4) || decide (mod = 6#4)

/-- `mod in {0, 7} or mod >= 9`: `None`, `DSB` and the reserved ordinals (R256, R167). -/
def hasNoRule (mod : BitVec 4) : Bool :=
  decide (mod = 0#4) || decide (mod = 7#4) || decide (9 ≤ mod.toNat)

end Sys2Proof.Machine
end

