-- ==== Sys2Proof/Machine/Ops.lean ====
section
/-! DEFINITION. The named operations that the meanings share: the ring primitives (spec/20_memory.md
R61, R62), and how a command ends: `ACK`, `ERR` with a status raised, `NAK`, or `ACK` with samples
(spec/30_encoding.md R97, spec/00_scope.md R12, spec/60_exceptions.md R286, R290). -/

namespace Sys2Proof.Machine

variable {F : Type}

/-! ## Ring primitives -/

/-- `MemRead(buf, i)` for a ring of length `n`: `buf[i mod n]`, `i` any integer (R61). -/
def memRead (A : Arith F) (n : Nat) (buf : Memory F) (i : Int) : F :=
  Memory.read A buf (i % (n : Int)).toNat

/-- `MemWrite(buf, i, v)`: `buf[i mod n] <- v` (R61). -/
def memWrite [DecidableEq F] (A : Arith F) (n : Nat) (buf : Memory F) (i : Int) (v : F) : Memory F :=
  Memory.write A (i % (n : Int)).toNat v buf

/-- `RingPush(buf, w, v)`: store at the write index, then advance it modulo the length (R62). -/
def ringPush [DecidableEq F] (A : Arith F) (n : Nat) (r : Ring F) (v : F) : Ring F :=
  ⟨memWrite A n r.mem r.w v, (r.w + 1) % n⟩

/-- The element pushed `k` pushes before the newest (R62). -/
def ringTap (A : Arith F) (n : Nat) (r : Ring F) (k : Nat) : F :=
  memRead A n r.mem ((r.w : Int) - 1 - k)

/-! ## The end of a command (R97) -/

/-- Answer with these words; nothing else changes. -/
def State.answer (s : State) (kind : ResponseKind) (count : BitVec 2) (v0 v1 : Word64) : State :=
  { s with port := { s.port with response := ⟨rspWord kind count, v0, v1⟩ } }

/-- `respond ACK`, both data words zero. -/
def State.ack (s : State) : State := s.answer .ack 0#2 0#64 0#64

/-- `respond ACK with V0 = v`. -/
def State.ackValue (s : State) (v : Word64) : State := s.answer .ack 0#2 v 0#64

/-- `nak`: "end the command with response `NAK` and no state change at all" (R12, R286). -/
def State.nak (s : State) : State := s.answer .nak 0#2 0#64 0#64

/-- `raise <Status>`: the block's whole entry into an error (R12, R290).  It writes `STATUS`, answers
`ERR` with the code in `V0`, and "saves no state, switches no mode, masks nothing and transfers
control nowhere".  There is no return from it (R291): the host recovers by a later `CHECK` or `OPEN`. -/
def State.raise (s : State) (c : Status) : State :=
  { s with status := c }.answer .err 0#2 (c.code.setWidth 64) 0#64

/-- `respond ACK, COUNT = 1, V0 = y`, and the sample joins the output stream (R64, R97). -/
def State.deliverOne (s : State) (y : F64) : State :=
  { s with port := { s.port with output := s.port.output ++ [y] } }.answer .ack 1#2 y.bits 0#64

/-- `respond ACK, COUNT = 2, V0 = l, V1 = r`, and the samples join the output stream, left first. -/
def State.deliverTwo (s : State) (l r : F64) : State :=
  { s with port := { s.port with output := s.port.output ++ [l, r] } }.answer .ack 2#2 l.bits r.bits

/-! ## Whole-state writes -/

/-- Every piece of the block's state takes its reset value (R40, R252, R310).  The ports are the host's
side and stay (log entry 6). -/
def State.resetBlock (s : State) : State := { State.reset with port := s.port }

/-- What a unit operation reads of the configuration. -/
def State.setup (s : State) : Setup F64 := ⟨s.fs, s.width, s.derived⟩

end Sys2Proof.Machine
end

