-- ==== Sys2Proof/Machine/Filters.lean ====
section
/-! DEFINITION. Linear filter primitives (spec/40_filter_primitives.md): the biquad section, the FIR
convolver and the delay line. -/

namespace Sys2Proof.Machine

variable {F : Type}

/-- `BIQ.STEP(c, s, x)`: transposed direct form II (R121, D19).  Answers the new state and `y`. -/
def biqStep (A : Arith F) (c : Biquad F) (s : BiqState F) (x : F) : BiqState F × F :=
  let y := A.add (A.mul c.b0 x) s.z1
  (⟨A.add (A.sub (A.mul c.b1 x) (A.mul c.a1 y)) s.z2,
    A.sub (A.mul c.b2 x) (A.mul c.a2 y)⟩, y)

/-- The outputs of a section for a sequence of samples, from a given state (R122). -/
def biqRun (A : Arith F) (c : Biquad F) : BiqState F → List F → List F
  | _, [] => []
  | s, x :: xs => (biqStep A c s x).2 :: biqRun A c (biqStep A c s x).1 xs

/-- `acc + sum over k of h[k] * tap(k)`, `k` upward from `k0`, one rounding an operation (R11). -/
def convolveFrom (A : Arith F) (tap : Nat → F) (k0 : Nat) (acc : F) : List F → F
  | [] => acc
  | h :: hs => convolveFrom A tap (k0 + 1) (A.add acc (A.mul h (tap k0))) hs

/-- The convolution sum of R126 and R145, from `acc = +0.0`. -/
def convolve (A : Arith F) (h : List F) (tap : Nat → F) : F := convolveFrom A tap 0 A.zero h

/-- `FIR.PUSH(f, x)` for an instance whose history has length `n` (R125). -/
def firPush [DecidableEq F] (A : Arith F) (n : Nat) (hist : Ring F) (x : F) : Ring F :=
  ringPush A n hist x

/-- `FIR.GET(f)`: the coefficients against the history, newest sample against `h[0]` (R126, D20). -/
def firGet (A : Arith F) (n : Nat) (h : List F) (hist : Ring F) : F :=
  convolve A h (ringTap A n hist)

/-- `DLY.STEP(x)`: push, then read the centre tap `DLY_D` pushes back (R130, R131). -/
def dlyStep [DecidableEq F] (A : Arith F) (P : Params F) (dl : Ring F) (x : F) : Ring F × F :=
  let dl' := ringPush A P.mpxL dl x
  (dl', ringTap A P.mpxL dl' P.dlyD)

end Sys2Proof.Machine
end

