-- ==== Sys2Proof/Machine/Deemphasis.lean ====
section
/-! DEFINITION. De-emphasis filter (spec/43_deemphasis.md). -/

namespace Sys2Proof.Machine

variable {F : Type}

/-- `tau` in microseconds (R176). -/
def deeTau (K : Consts F) (de : BitVec 2) : F := if de = 1#2 then K.tau50 else K.tau75

/-- `DEP1 = 0.0 - EXP((0.0 - 1.0) / ((f64(FS) * tau) * 1e-6))` (R176). -/
def deePole (A : Arith F) (P : Params F) (fs : Word32) (de : BitVec 2) : F :=
  A.sub A.zero (P.num.exp (A.div (A.sub A.zero A.one)
    (A.mul (A.mul (A.ofNat fs.toNat) (deeTau P.consts de)) (A.lit 1 1000000))))

/-- `DEZ1 = (1.0 + DEP1) / 5.0` (R176). -/
def deeZero (A : Arith F) (K : Consts F) (dep1 : F) : F :=
  A.div (A.add A.one dep1) K.deeDiv

/-- The biquad coefficients of both channels (R177): `(DEZ1, DEZ1, 0, DEP1, 0)` where the parameter
`DEE_B1_IS_Z1` holds and `(DEZ1, 0, 0, DEP1, 0)` where it does not (D30; log entry 3). -/
def deeCoeffs (A : Arith F) (P : Params F) (D : Derived F) : Biquad F :=
  ⟨D.dez1, if P.deeB1IsZ1 then D.dez1 else A.zero, A.zero, D.dep1, A.zero⟩

/-- Output channels (R178). -/
inductive Channel where
  | left | right
deriving DecidableEq, Repr

/-- `DEE.STEP(ch, x)` (R178): each channel has its own state. -/
def deeStep (A : Arith F) (P : Params F) (D : Derived F) (r : DeeRegs F) (ch : Channel) (x : F) :
    DeeRegs F × F :=
  match ch with
  | .left =>
    let b := biqStep A (deeCoeffs A P D) r.l x
    ({ r with l := b.1 }, b.2)
  | .right =>
    let b := biqStep A (deeCoeffs A P D) r.r x
    ({ r with r := b.1 }, b.2)

end Sys2Proof.Machine
end

