-- ==== Sys2Proof/Machine/Differentiator.lean ====
section
/-! DEFINITION. Differentiator bank and FIR differentiator (spec/41_differentiator.md). -/

namespace Sys2Proof.Machine

variable {F : Type}

/-- `DIFFLEN <- 19 if FS >= 248000 else 9` (R141). -/
def diffLength (K : Consts F) (fs : Word32) : BitVec 5 :=
  if K.diffRate ≤ fs.toNat then K.diffLenHi else K.diffLenLo

/-- `KERNEL = KERNEL_19 if DIFFLEN = 19 else KERNEL_9` (R141). -/
def kernelOf (P : Params F) (difflen : BitVec 5) : List F :=
  if difflen = 19#5 then P.kernel19.toList else P.kernel9.toList

/-- `FMGAIN` (R143): compensated strictly above 300000 Hz. -/
def fmGain (A : Arith F) (K : Consts F) (fs : Word32) : F :=
  if K.fmCompRate < fs.toNat then
    A.mul K.gainTrim (A.div (A.ofNat fs.toNat) (A.ofNat K.fmCompRate))
  else K.gainTrim

/-- `DIFF.STEP(p)` (R145, D22): push the phase, convolve the whole ring, scale.  The sum reads
`PH[PHW - k]` before the index advances. -/
def diffStep [DecidableEq F] (A : Arith F) (P : Params F) (E : Setup F) (ph : Ring F) (p : F) :
    Ring F × F :=
  let n := E.derived.difflen.toNat
  let mem := memWrite A n ph.mem ph.w p
  let acc := convolve A (kernelOf P E.derived.difflen)
    (fun k => memRead A n mem ((ph.w : Int) - k))
  (⟨mem, (ph.w + 1) % n⟩, A.mul E.derived.fmgain acc)

end Sys2Proof.Machine
end

