-- ==== Sys2Proof/Machine/Demodulator.lean ====
section
/-! DEFINITION. FM, AM and SSB/CW demodulator (spec/42_demodulator.md). -/

namespace Sys2Proof.Machine

variable {F : Type}

/-- `re = I * Z1I + Q * Z1Q`: real part of `z0 * conj(z1)` (R156, R157). -/
def productRe (A : Arith F) (z1 : FmdRegs F) (i q : F) : F :=
  A.add (A.mul i z1.z1i) (A.mul q z1.z1q)

/-- `im = Q * Z1I - I * Z1Q`: imaginary part (R156, R157). -/
def productIm (A : Arith F) (z1 : FmdRegs F) (i q : F) : F :=
  A.sub (A.mul q z1.z1i) (A.mul i z1.z1q)

/-- The FM registers after one pair: `z1` takes the pair, `PHASE` adds the angle of the product
(R156, R158, R159). -/
def phasorStep (A : Arith F) (N : Num F) (z1 : FmdRegs F) (i q : F) : FmdRegs F :=
  ⟨i, q, A.add z1.phase (N.arg (productIm A z1 i q) (productRe A z1 i q))⟩

/-- `FMD.STEP(I, Q)` (R156). -/
def fmdStep [DecidableEq F] (A : Arith F) (P : Params F) (E : Setup F) (d : Datapath F) (i q : F) :
    Datapath F × F :=
  let fmd := phasorStep A P.num d.fmd i q
  let diff := diffStep A P E d.ph fmd.phase
  ({ d with fmd := fmd, ph := diff.1 }, diff.2)

/-- `AMD.STEP(I, Q)`: `0.7071 * sqrt(I * I + Q * Q)` (R165). -/
def amdStep (A : Arith F) (K : Consts F) (i q : F) : F :=
  A.mul K.amScale (A.sqrt (A.add (A.mul i i) (A.mul q q)))

/-- `SSB.STEP(I, Q)`: `I`, the bit pattern unchanged; `Q` is ignored (R166). -/
def ssbStep (i _q : F) : F := i

end Sys2Proof.Machine
end

