-- ==== Sys2Proof/Machine/Agc.lean ====
section
/-! DEFINITION. Pilot automatic gain control and pilot presence (spec/45_agc.md). -/

namespace Sys2Proof.Machine

variable {F : Type}

/-- `10 ^ (dBps / (20.0 * f64(FS)))`: the per-sample factor of a rate in decibels per second
(R211, D26). -/
def agcRate (A : Arith F) (N : Num F) (fs : Word32) (dbps : F) : F :=
  N.pow10 (A.div dbps (A.mul (A.lit 20 1) (A.ofNat fs.toNat)))

/-- `AGC.UPDATE()` (R213): exactly one of four branches, in priority order. -/
def agcUpdate (A : Arith F) (K : Consts F) (D : Derived F) (g : AgcRegs F) : AgcRegs F :=
  if A.le K.pilotMaxGain g.gain then
    { g with gain := K.pilotMaxGain, pres := .notPresent }
  else if A.lt g.peak K.stableLo then
    { g with gain := A.mul g.gain D.agcinc }
  else if A.lt K.stableHi g.peak then
    { g with gain := A.mul g.gain D.agcdec, peak := A.mul g.peak D.agcdec }
  else
    { g with pres := .present }

/-- The running maximum of `abs(p)` (R212). -/
def agcPeak (A : Arith F) (g : AgcRegs F) (p : F) : AgcRegs F :=
  if A.lt g.peak (A.abs p) then { g with peak := A.abs p } else g

/-- `AGC.STEP(r)` (R212, D25): the gained sample uses the gain from before this frame's update. -/
def agcStep (A : Arith F) (K : Consts F) (D : Derived F) (g : AgcRegs F) (r : F) : AgcRegs F × F :=
  let p := A.mul g.gain r
  (agcUpdate A K D (agcPeak A g p), p)

end Sys2Proof.Machine
end

