-- ==== Sys2Proof/Machine/Nco.lean ====
section
/-! DEFINITION. Numerically controlled oscillator, pilot phase detector and phase-locked loop
(spec/44_nco_pll.md). -/

namespace Sys2Proof.Machine

variable {F : Type}

/-- `step = (TWO_PI * FTRACK) / f64(FS)`, radians per sample (R188). -/
def ncoStepAngle (A : Arith F) (fs : Word32) (n : NcoRegs F) : F :=
  A.div (A.mul A.twoPi n.ftrack) (A.ofNat fs.toNat)

/-- `NCO.ADVANCE()` (R188): advance and wrap `THETA`, then refresh the sine and cosine cache from the
new `THETA` (R189). -/
def ncoAdvance (A : Arith F) (N : Num F) (fs : Word32) (n : NcoRegs F) : NcoRegs F :=
  let theta := A.wrap (A.add n.theta (ncoStepAngle A fs n))
  { n with theta := theta, cosc := N.cos theta, sinc := N.sin theta }

/-- `PPD.STEP(p)` (R190): mixer, then the two cascaded loop-filter biquads; `PERR` holds the result. -/
def ppdStep (A : Arith F) (P : Params F) (cosc : F) (r : PpdRegs F) (p : F) : PpdRegs F :=
  let u := biqStep A P.lf1 r.lf1 (A.mul cosc p)
  let e := biqStep A P.lf2 r.lf2 u.2
  ⟨u.1, e.1, e.2⟩

/-- `PLL.UPDATE(e)`: `FTRACK <- FCENTER + 10.0 * e` (R191). -/
def pllUpdate (A : Arith F) (K : Consts F) (n : NcoRegs F) (e : F) : NcoRegs F :=
  { n with ftrack := A.add n.fcenter (A.mul K.pllK e) }

/-- `NCO.SYNC(p)` (R187): advance, detect with the new phase, close the loop. -/
def ncoSync (A : Arith F) (P : Params F) (fs : Word32) (n : NcoRegs F) (r : PpdRegs F) (p : F) :
    NcoRegs F × PpdRegs F :=
  let n' := ncoAdvance A P.num fs n
  let r' := ppdStep A P n'.cosc r p
  (pllUpdate A P.consts n' r'.perr, r')

/-- `NCO.X2()`: `(2.0 * COSC) * SINC` (R192). -/
def ncoX2 (A : Arith F) (n : NcoRegs F) : F := A.mul (A.mul (A.lit 2 1) n.cosc) n.sinc

/-- `NCO.X3()`: `((4.0 * COSC) * COSC - 1.0) * SINC` (R193).  Nothing in scope calls it (R4). -/
def ncoX3 (A : Arith F) (n : NcoRegs F) : F :=
  A.mul (A.sub (A.mul (A.mul (A.lit 4 1) n.cosc) n.cosc) A.one) n.sinc

end Sys2Proof.Machine
end

