-- ==== Sys2Proof/Machine/Mpx.lean ====
section
/-! DEFINITION. FM stereo multiplex decoder (spec/46_mpx_decoder.md). -/

namespace Sys2Proof.Machine

variable {F : Type}

/-- `SGAIN = 1.0 / (1.0 + WIDTH)` (R226). -/
def stereoGain (A : Arith F) (width : F) : F := A.div A.one (A.add A.one width)

/-- Steps 1 and 2 (R228): the delay line and both band-pass histories take the sample. -/
def mpxFeed [DecidableEq F] (A : Arith F) (P : Params F) (d : Datapath F) (x : F) : Datapath F :=
  { d with
    dl := (dlyStep A P d.dl x).1
    pbh := firPush A P.mpxL d.pbh x
    sbh := firPush A P.mpxL d.sbh x }

/-- Step 5 (R230): the side signal `(5.0 * lo38) * sub`. -/
def mpxSide (A : Arith F) (K : Consts F) (lo38 sub : F) : F := A.mul (A.mul K.sideScaling lo38) sub

/-- `left = SGAIN * (mono + WIDTH * side)` (R230). -/
def mpxLeft (A : Arith F) (E : Setup F) (mono side : F) : F :=
  A.mul E.derived.sgain (A.add mono (A.mul E.width side))

/-- `right = SGAIN * (mono - WIDTH * side)` (R230). -/
def mpxRight (A : Arith F) (E : Setup F) (mono side : F) : F :=
  A.mul E.derived.sgain (A.sub mono (A.mul E.width side))

/-- Step 6 (R231): the final lowpass, one FIR a channel with shared coefficients (D24), skipped when
`LPFON` is off. -/
def mpxLowpass [DecidableEq F] (A : Arith F) (P : Params F) (E : Setup F) (d : Datapath F)
    (left right : F) : Datapath F × F × F :=
  if E.derived.lpfon then
    let llh := firPush A P.lpfM d.llh left
    let lrh := firPush A P.lpfM d.lrh right
    ({ d with llh := llh, lrh := lrh },
      firGet A P.lpfM P.hLpf.toList llh, firGet A P.lpfM P.hLpf.toList lrh)
  else (d, left, right)

/-- Steps 5 and 6 of a frame whose pilot is present (R230, R231): sync, then read the doubled output
(R194), rebuild the two channels, then the final lowpass. -/
def mpxStereo [DecidableEq F] (A : Arith F) (P : Params F) (E : Setup F) (d : Datapath F)
    (mono p : F) : Datapath F × F × F :=
  let sync := ncoSync A P E.fs d.nco d.ppd p
  let side := mpxSide A P.consts (ncoX2 A sync.1) (firGet A P.mpxL P.hSide.toList d.sbh)
  mpxLowpass A P E { d with nco := sync.1, ppd := sync.2 } (mpxLeft A E mono side)
    (mpxRight A E mono side)

/-- `MPX.STEP(x)` (R227).  A frame whose pilot is not `Present` after this frame's AGC update answers
`(mono, mono)` and does nothing more (R229, D27, D29); the switch is hard (R232). -/
def mpxStep [DecidableEq F] (A : Arith F) (P : Params F) (E : Setup F) (d : Datapath F) (x : F) :
    Datapath F × F × F :=
  let mono := (dlyStep A P d.dl x).2
  let fed := mpxFeed A P d x
  let agc := agcStep A P.consts E.derived d.agc (firGet A P.mpxL P.hPilot.toList fed.pbh)
  let d' := { fed with agc := agc.1 }
  if agc.1.pres = .present then mpxStereo A P E d' mono agc.2 else (d', mono, mono)

end Sys2Proof.Machine
end

