-- ==== Sys2Proof/Machine/Operands.lean ====
section
/-! DEFINITION. Operand forms: which bits of `D0` a configuration write takes (spec/30_encoding.md
R99, spec/10_state.md R26), and the value of every CSR as `RDCSR` returns it (R26 to R29, R254).
These are the only places where a CSR is read or written by number. -/

namespace Sys2Proof.Machine

/-- `D0[31:0]`: the value of a 32-bit CSR; `D0[63:32]` is ignored. -/
def operandWord (d0 : Word64) : Word32 := d0.extractLsb' 0 32

/-- `D0[0]`: the value of `LPFEN`; the rest is ignored. -/
def operandBit (d0 : Word64) : Bool := d0.getLsbD 0

/-- `D0[63:0]` as a binary64 bit pattern: the value of `WIDTH`. -/
def operandF64 (d0 : Word64) : F64 := ⟨d0⟩

/-- The configuration CSR with this number takes its operand (R253); `none` for a number that is not
one of the five, assigned or not. -/
def State.writeConfig (s : State) (csrn : BitVec 8) (d0 : Word64) : Option State :=
  match Csr.ofNumber csrn with
  | some .fmt => some { s with fmt := operandWord d0 }
  | some .fs => some { s with fs := operandWord d0 }
  | some .nch => some { s with nch := operandWord d0 }
  | some .width => some { s with width := operandF64 d0 }
  | some .lpfen => some { s with lpfen := operandBit d0 }
  | _ => none

/-- The value of a CSR, zero-extended to 64 bits (R254); a 64-bit CSR gives its bit pattern. -/
def State.csrValue (s : State) : Csr → Word64
  | .fmt => s.fmt.setWidth 64
  | .fs => s.fs.setWidth 64
  | .nch => s.nch.setWidth 64
  | .width => s.width.bits
  | .lpfen => (BitVec.ofBool s.lpfen).setWidth 64
  | .status => s.status.code.setWidth 64
  | .ss => s.ss.code.setWidth 64
  | .mod => s.derived.mod.setWidth 64
  | .de => s.derived.de.setWidth 64
  | .nout => s.derived.nout.setWidth 64
  | .lpfon => (BitVec.ofBool s.derived.lpfon).setWidth 64
  | .difflen => s.derived.difflen.setWidth 64
  | .fmgain => s.derived.fmgain.bits
  | .agcinc => s.derived.agcinc.bits
  | .agcdec => s.derived.agcdec.bits
  | .sgain => s.derived.sgain.bits
  | .dep1 => s.derived.dep1.bits
  | .dez1 => s.derived.dez1.bits
  | .pres => s.dp.agc.pres.code.setWidth 64
  | .gain => s.dp.agc.gain.bits
  | .peak => s.dp.agc.peak.bits
  | .theta => s.dp.nco.theta.bits
  | .ftrack => s.dp.nco.ftrack.bits
  | .fcenter => s.dp.nco.fcenter.bits
  | .cosc => s.dp.nco.cosc.bits
  | .sinc => s.dp.nco.sinc.bits
  | .phase => s.dp.fmd.phase.bits
  | .z1i => s.dp.fmd.z1i.bits
  | .z1q => s.dp.fmd.z1q.bits
  | .perr => s.dp.ppd.perr.bits

end Sys2Proof.Machine
end

