-- ==== Sys2Proof/Machine/Facade.lean ====
section
/-! DEFINITION. The facade and the eight host commands (spec/47_facade_commands.md).

Every meaning is total and ends in a next state: `ACK`, `ERR` and `NAK` are responses (R97, R250).
The commands that use the parameters are written over a parameter record `P`, so that the fixtures of
spec/95_test_vectors.md can be run through them; `exec…` takes the machine's own `params`. -/

namespace Sys2Proof.Machine

variable {F : Type}

/-! ## The configuration check (R256) -/

/-- What `judge()` answers: a status code, or `Unsupported`, which is no code. -/
inductive Verdict where
  | status (c : Status)
  | unsupported
deriving DecidableEq, Repr

/-- `0.0 <= WIDTH and WIDTH <= 1.0`; a NaN fails both (R256). -/
def widthLegal (w : F64) : Bool := f64.le f64.zero w && f64.le w f64.one

/-- `judge()`: "the first that applies decides" (R256, R288, D14). -/
def judge (K : Consts F64) (s : State) : Verdict :=
  if s.fs = 0#32 then .status .unrecognizedFormat
  else if s.nch ≠ 2#32 then .status .channelCountMismatch
  else if isWfmTag (tagModf s.fmt) && decide (s.fs.toNat < K.wfmMinRate) then
    .status .sampleRateTooLow
  else if hasNoRule (tagModf s.fmt) then .unsupported
  else if isWfmTag (tagModf s.fmt) && decide (tagDef s.fmt = 3#2) then .unsupported
  else if isWfmTag (tagModf s.fmt) && !widthLegal s.width then .unsupported
  else .status .ok

/-! ## What `OPEN` latches (R257) -/

/-- `MOD <- 5 if FMT[11:8] = 6 else FMT[11:8]` (R94). -/
def effectiveMod (modf : BitVec 4) : BitVec 4 := if modf = 6#4 then 5#4 else modf

/-- The derived configuration.  A value that R257 does not assign keeps its reset value `+0.0`. -/
def latch (A : Arith F) (P : Params F) (fmt fs : Word32) (width : F) (lpfen : Bool) : Derived F :=
  let mod := effectiveMod (tagModf fmt)
  let wfm := decide (mod = 5#4)
  let de := if wfm then tagDef fmt else 0#2
  let emphasis := wfm && decide (de ≠ 0#2)
  let dep1 := if emphasis then deePole A P fs de else A.zero
  { mod := mod
    de := de
    nout := if wfm then 2#2 else 1#2
    lpfon := wfm && lpfen && decide (tagModf fmt ≠ 6#4)
    difflen := diffLength P.consts fs
    fmgain := fmGain A P.consts fs
    agcinc := if wfm then agcRate A P.num fs P.consts.agcUpDbps else A.zero
    agcdec := if wfm then agcRate A P.num fs P.consts.agcDownDbps else A.zero
    sgain := if wfm then stereoGain A width else A.zero
    dep1 := dep1
    dez1 := if emphasis then deeZero A P.consts dep1 else A.zero }

/-- The state of a stream just created: the derived configuration latched, every datapath register,
ring element and ring index at its reset value, `SS = Open`, `STATUS = OK` (R257, R313). -/
def State.opened (P : Params F64) (s : State) : State :=
  { s with
    status := .ok
    ss := .opened
    derived := latch f64 P s.fmt s.fs s.width s.lpfen
    dp := Datapath.reset f64 P.consts }

/-- The state of a stream discarded (R259, D18): the configuration CSRs and `STATUS` stay. -/
def State.discarded (s : State) : State :=
  { s with
    ss := .closed
    derived := Derived.reset f64
    dp := Datapath.reset f64 documentConsts }

/-! ## The commands over a parameter record -/

/-- `CHECK` (R255). -/
def checkWith (P : Params F64) (s : State) : State :=
  match s.ss with
  | .opened => s.nak
  | .closed =>
    match judge P.consts s with
    | .unsupported => s.nak
    | .status .ok => { s with status := .ok }.ackValue 0#64
    | .status c => s.raise c

/-- `OPEN` (R257). -/
def openWith (P : Params F64) (s : State) : State :=
  match s.ss with
  | .opened => s.nak
  | .closed =>
    match judge P.consts s with
    | .unsupported => s.nak
    | .status .ok => (s.opened P).ackValue 0#64
    | .status c => s.raise c

/-- One frame of a `WFM` stream (R258, R175, R179): discriminator, MPX decoder, then de-emphasis of
both channels where it is requested, mono frames included (D38). -/
def wfmFrame [DecidableEq F] (A : Arith F) (P : Params F) (E : Setup F) (d : Datapath F) (i q : F) :
    Datapath F × F × F :=
  let x := fmdStep A P E d i q
  let m := mpxStep A P E x.1 x.2
  if E.derived.de = 0#2 then m
  else
    let l := deeStep A P E.derived m.1.dee .left m.2.1
    let r := deeStep A P E.derived l.1 .right m.2.2
    ({ m.1 with dee := r.1 }, l.2, r.2)

/-- `PUSH I, Q` (R258): the dispatch by modulation type. -/
def pushWith (P : Params F64) (i q : F64) (s : State) : Host.Outcome State Fault Refusal :=
  match s.ss with
  | .closed => .next s.nak
  | .opened =>
    match ModulationType.ofOrdinal s.derived.mod with
    | some .nfm =>
      let r := fmdStep f64 P s.setup s.dp i q
      .next ({ s with dp := r.1 }.deliverOne r.2)
    | some .am => .next (s.deliverOne (amdStep f64 P.consts i q))
    | some .lsb => .next (s.deliverOne (ssbStep i q))
    | some .usb => .next (s.deliverOne (ssbStep i q))
    | some .cw => .next (s.deliverOne (ssbStep i q))
    | some .wfm =>
      let r := wfmFrame f64 P s.setup s.dp i q
      .next ({ s with dp := r.1 }.deliverTwo r.2.1 r.2.2)
    | some .none => .refused (.noDemodulationRule s.derived.mod)
    | some .wfmNoLowpass => .refused (.noDemodulationRule s.derived.mod)
    | some .dsb => .refused (.noDemodulationRule s.derived.mod)
    | none => .refused (.noDemodulationRule s.derived.mod)

/-! ## The meanings -/

/-- `NOP` (R251). -/
def execNop (s : State) : Host.Outcome State Fault Refusal := .next s.ack

/-- `RST` (R252). -/
def execRst (s : State) : Host.Outcome State Fault Refusal := .next s.resetBlock.ack

/-- `WRCSR csrn, value` (R253). -/
def execWrcsr (csrn : BitVec 8) (value : Word64) (s : State) : Host.Outcome State Fault Refusal :=
  match s.writeConfig csrn value with
  | none => .next s.nak
  | some t =>
    match s.ss with
    | .opened => .next s.nak
    | .closed => .next t.ack

/-- `RDCSR csrn` (R254). -/
def execRdcsr (csrn : BitVec 8) (s : State) : Host.Outcome State Fault Refusal :=
  match Csr.ofNumber csrn with
  | none => .next s.nak
  | some c => .next (s.ackValue (s.csrValue c))

/-- `CHECK` (R255). -/
def execCheck (s : State) : Host.Outcome State Fault Refusal := .next (checkWith params s)

/-- `OPEN` (R257). -/
def execOpen (s : State) : Host.Outcome State Fault Refusal := .next (openWith params s)

/-- `PUSH I, Q` (R258). -/
def execPush (i q : F64) (s : State) : Host.Outcome State Fault Refusal := pushWith params i q s

/-- `CLOSE` (R259). -/
def execClose (s : State) : Host.Outcome State Fault Refusal :=
  match s.ss with
  | .opened => .next s.discarded.ack
  | .closed => .next s.ack

end Sys2Proof.Machine
end

