-- ==== Sys2Proof/Machine/Dispatch.lean ====
section
/-! DEFINITION. One arm per constructor of `Instr`: the meaning of each command. -/

namespace Sys2Proof.Machine

def exec (i : Instr) (s : State) : Host.Outcome State Fault Refusal :=
  match i with
  | .nop => Sys2Proof.Machine.execNop s
  | .rst => Sys2Proof.Machine.execRst s
  | .wrcsr csrn value => Sys2Proof.Machine.execWrcsr csrn value s
  | .rdcsr csrn => Sys2Proof.Machine.execRdcsr csrn s
  | .check => Sys2Proof.Machine.execCheck s
  | .openStream => Sys2Proof.Machine.execOpen s
  | .push x y => Sys2Proof.Machine.execPush x y s
  | .closeStream => Sys2Proof.Machine.execClose s

end Sys2Proof.Machine
end

