-- ==== Sys2Proof/Machine/Ports.lean ====
section
/-! DEFINITION. What the command port does with the next thing the host presents (spec/30_encoding.md
R96, R101, R106; spec/00_scope.md R13; spec/70_reset_and_hazards.md R310).  `Step.lean` only calls
this. -/

namespace Sys2Proof.Machine

/-- The state once the first pending event is taken off the port. -/
def State.taken (s : State) (rest : List PortEvent) : State :=
  { s with port := { s.port with pending := rest } }

/-- A command triple: an illegal command word "answers `NAK` and changes nothing" (R101); any other is
the instruction the decoder reads. -/
def runCommand (c : Command) (s : State) : Host.Outcome State Fault Refusal :=
  match decode c with
  | .instr i => exec i s
  | .illegal _ => .next s.nak

/-- One transaction.  With nothing presented the block waits and "holds its state" (R298, R310); the
`rst` pin has the effect of the `RST` command on the block's state and, being no command, answers
nothing (R97, R310; log entry 9). -/
def transact (s : State) : Host.Outcome State Fault Refusal :=
  match s.port.pending with
  | [] => .next s
  | .resetPin :: rest => .next (s.taken rest).resetBlock
  | .command c :: rest => runCommand c (s.taken rest)

/-- The host presents this command before anything else it has pending. -/
def State.present (s : State) (c : Command) : State :=
  { s with port := { s.port with pending := .command c :: s.port.pending } }

end Sys2Proof.Machine
end

