-- ==== Sys2Proof/Machine/Step.lean ====
section
/-! DEFINITION. One step of the block: one transaction at the command port (spec/00_scope.md R13,
spec/20_memory.md R70). -/

namespace Sys2Proof.Machine

/-- One step: the first thing the host has presented is performed whole (R13, R106). -/
def step (s : State) : Host.Outcome State Fault Refusal := transact s

/-- `s` with this command presented at the port before anything else, so that the next step performs
it.  The block has no memory a program is loaded into: a program is the sequence of commands its host
presents (R24, R38; log entry 10). -/
def State.withFetchWord (s : State) (nbits w : Nat) : State := s.present (commandOfBits nbits w)

end Sys2Proof.Machine
end

