-- ==== Sys2Proof/Machine/HostSide.lean ====
section
/-! DEFINITION. What stands on the host's side of the port: pseudo-commands and assembler lines
(spec/30_encoding.md R104, R105), the block read's pairing of a buffer (spec/20_memory.md R65), and
the byte order of what a host stores (R66). -/

namespace Sys2Proof.Machine

/-! ## Pseudo-commands (R105) -/

inductive PseudoCommand where
  /-- `config <tag>, <fs>, <nch>, <width>, <lpfen>` -/
  | config (tag fs nch : Word32) (width : F64) (lpfen : Bool)
  /-- `setmod <modname>, <dename>` -/
  | setmod (mod : ModulationType) (de : DeEmphasisType)
  /-- `rdstatus` -/
  | rdstatus
  /-- `readblock <p>: (I0, Q0) ...` -/
  | readblock (pairs : List (F64 × F64))
deriving DecidableEq, Repr

/-- `wrcsr` of a named CSR. -/
def writeCsr (c : Csr) (value : Word64) : Instr := .wrcsr c.number value

/-- The expansions of R105. -/
def PseudoCommand.expand : PseudoCommand → List Instr
  | .config tag fs nch width lpfen =>
    [writeCsr .fmt (tag.setWidth 64), writeCsr .fs (fs.setWidth 64), writeCsr .nch (nch.setWidth 64),
     writeCsr .width width.bits, writeCsr .lpfen ((BitVec.ofBool lpfen).setWidth 64)]
  | .setmod mod de => [writeCsr .fmt ((packTag mod.ordinal de.flags 0#32).setWidth 64)]
  | .rdstatus => [.rdcsr Csr.status.number]
  | .readblock pairs => pairs.map (fun p => .push p.1 p.2)

/-! ## Assembler lines (R104) -/

/-- A CSR operand: its name or its number. -/
inductive CsrOperand where
  | name (c : Csr)
  | number (n : BitVec 8)
deriving DecidableEq, Repr

def CsrOperand.value : CsrOperand → BitVec 8
  | .name c => c.number
  | .number n => n

/-- A floating operand: a decimal literal `(-) digits / 10 ^ places`, or a bit pattern. -/
inductive FloatOperand where
  | decimal (negative : Bool) (digits places : Nat)
  | pattern (bits : Word64)
deriving DecidableEq, Repr

/-- "A floating literal denotes the binary64 value nearest to it" (R104). -/
def FloatOperand.value : FloatOperand → F64
  | .decimal neg digits places =>
    if neg then (F64.lit digits (10 ^ places)).neg else F64.lit digits (10 ^ places)
  | .pattern bits => ⟨bits⟩

/-- The value of a `wrcsr` line: an integer, or a floating literal for `WIDTH`. -/
inductive ValueOperand where
  | integer (n : Nat)
  | float (f : FloatOperand)
deriving DecidableEq, Repr

def ValueOperand.value : ValueOperand → Word64
  | .integer n => BitVec.ofNat 64 n
  | .float f => f.value.bits

/-- One line of assembler text, parsed. -/
inductive AsmLine where
  | nop
  | rst
  | wrcsr (csr : CsrOperand) (value : ValueOperand)
  | rdcsr (csr : CsrOperand)
  | check
  | openStream
  | push (i q : FloatOperand)
  | closeStream
deriving DecidableEq, Repr

/-- The instruction a line stands for. -/
def AsmLine.instr : AsmLine → Instr
  | .nop => .nop
  | .rst => .rst
  | .wrcsr c v => .wrcsr c.value v.value
  | .rdcsr c => .rdcsr c.value
  | .check => .check
  | .openStream => .openStream
  | .push i q => .push i.value q.value
  | .closeStream => .closeStream

/-- "The encoding of a line is the triple `CMD, D0, D1`" (R104). -/
def AsmLine.assemble (l : AsmLine) : Command := encode l.instr

/-! ## Buffers (R63, R65, R66) -/

/-- The pairs of an interleaved buffer, I first; an unpaired last sample is not pushed (R63, R65). -/
def blockPairs : List F64 → List (F64 × F64)
  | i :: q :: rest => (i, q) :: blockPairs rest
  | _ => []

/-- The bytes of a word, least significant first. -/
def bytesLittle (n : Nat) (w : Nat) : List (BitVec 8) :=
  match n with
  | 0 => []
  | k + 1 => BitVec.ofNat 8 w :: bytesLittle k (w / 256)

/-- The bytes a host stores a 64-bit word as, by the byte order it chose (R66). -/
def storedBytes (e : Endian) (w : Word64) : List (BitVec 8) :=
  match e with
  | .little => bytesLittle 8 w.toNat
  | .big => (bytesLittle 8 w.toNat).reverse

end Sys2Proof.Machine
end

