-- ==== Sys2Proof/Machine/Ideal.lean ====
section
/-! DEFINITION. The ideal instance (spec/00_scope.md R10, decision D7): the same unit operations over
the real numbers, with the exact functions, and the real number that a binary64 pattern stands for.
Nothing the machine does uses it; the document's formulas and tolerances, and what it is for an
operation to be rounded once (R9, D5), are statements about it. -/

namespace Sys2Proof

/-! ## The value of a pattern, from the fields of spec/20_memory.md R66 -/

/-- The exponent field, bits `[62:52]`. -/
def F64.exponentField (x : F64) : Nat := (x.bits.extractLsb' 52 11).toNat

/-- The fraction field, bits `[51:0]`. -/
def F64.fractionField (x : F64) : Nat := (x.bits.extractLsb' 0 52).toNat

/-- The real number of a finite pattern, by IEEE 754: subnormal with exponent field 0, otherwise with
the leading bit `2 ^ 52` added to the fraction. -/
noncomputable def F64.value (x : F64) : ℝ :=
  (if x.bits.getLsbD 63 then -1 else 1) *
    (if x.exponentField = 0 then (x.fractionField : ℝ) / 2 ^ 1074
     else ((2 ^ 52 + x.fractionField : ℕ) : ℝ) * 2 ^ (x.exponentField - 1) / 2 ^ 1074)

/-- `r` is the real number `v` rounded once to binary64, to nearest with ties to even (R9, D5): below
the overflow threshold, halfway from the largest finite value to `2 ^ 1024`, a finite value nearest to
`v`, and where another value is as near the one with an even last bit; from the threshold on, the
infinity of the sign of `v`.  Which zero a zero result is, is not said here. -/
def F64.RoundsTo (v : ℝ) (r : F64) : Prop :=
  (|v| < (2 ^ 54 - 1) * 2 ^ 970 →
    r.exponentField ≠ 2047 ∧
    ∀ m : F64, m.exponentField ≠ 2047 →
      |r.value - v| ≤ |m.value - v| ∧
      (|r.value - v| = |m.value - v| → m.value ≠ r.value → r.bits.getLsbD 0 = false)) ∧
  ((2 ^ 54 - 1) * 2 ^ 970 ≤ |v| →
    r = if v < 0 then ⟨0xFFF0000000000000#64⟩ else ⟨0x7FF0000000000000#64⟩)

end Sys2Proof

namespace Sys2Proof.Machine

/-- Exact arithmetic on the reals; the wrap of R188, `t - 2*pi*ceil((t - pi)/(2*pi))`. -/
noncomputable def ideal : Arith ℝ where
  zero := 0
  one := 1
  pi := Real.pi
  twoPi := 2 * Real.pi
  lit := fun n d => (n : ℝ) / d
  ofNat := fun n => (n : ℝ)
  add := fun a b => a + b
  sub := fun a b => a - b
  mul := fun a b => a * b
  div := fun a b => a / b
  sqrt := Real.sqrt
  abs := fun a => |a|
  lt := fun a b => decide (a < b)
  le := fun a b => decide (a ≤ b)
  wrap := fun t => t - 2 * Real.pi * (⌈(t - Real.pi) / (2 * Real.pi)⌉ : ℝ)

/-- The exact functions of R9; `NUM.ARG(0, 0) = 0` (R10). -/
noncomputable def idealNum : Num ℝ where
  arg := fun im re => Complex.arg ⟨re, im⟩
  sin := Real.sin
  cos := Real.cos
  exp := Real.exp
  pow10 := fun x => (10 : ℝ) ^ x

/-- The constants of R5 as exact decimals. -/
noncomputable def idealConsts : Consts ℝ where
  diffRate := 248000
  diffLenHi := 19#5
  diffLenLo := 9#5
  gainTrim := 11 / 10
  fmCompRate := 300000
  amScale := 7071 / 10000
  pilotMaxGain := 15
  stableLo := 95 / 100
  stableHi := 105 / 100
  agcUpDbps := 64
  agcDownDbps := -12
  sideScaling := 5
  pllK := 10
  pilotHz := 19000
  wfmMinRate := 116000
  tau50 := 50
  tau75 := 75
  deeDiv := 5

/-- The property the document promises of every kernel (R142 (b)): its coefficients sum to zero. -/
def sumsToZero (kernel : List ℝ) : Prop := kernel.sum = 0

/-- The samples pushed into a ring from its reset content, in order. -/
noncomputable def idealHistory (n : Nat) (xs : List ℝ) : Ring ℝ :=
  xs.foldl (fun r x => ringPush ideal n r x) Ring.reset

end Sys2Proof.Machine
end

