-- ==== Sys2Proof/Safety.lean ====
section
/-! DEFINITION. What counts as a legal state and a legal run, in the words the claims use. -/

namespace Sys2Proof.Machine

/-! ## Responses -/

/-- The last command was turned away (R97, R286). -/
abbrev State.answeredNak (s : State) : Prop := rspKind s.port.response.rsp = ResponseKind.nak.code

/-- The same state with these words on the response ports (R97), written out and not assembled. -/
def State.responding (s : State) (rsp : Word32) (v0 v1 : Word64) : State :=
  { s with port := { s.port with response := ⟨rsp, v0, v1⟩ } }

/-- The same state with these words on the response ports and these samples joined to the output
stream (R64, R97). -/
def State.delivering (s : State) (rsp : Word32) (v0 v1 : Word64) (ys : List F64) : State :=
  { s with port := { s.port with response := ⟨rsp, v0, v1⟩, output := s.port.output ++ ys } }

/-- The two states hold the same block state (R20): they may differ at the ports only. -/
abbrev State.sameBlock (s t : State) : Prop := { s with port := t.port } = t

/-! ## Legal states -/

/-- A ring of length `n` is in canonical form and its write index is in range (R37). -/
abbrev Ring.legal (n : Nat) (r : Ring F64) : Prop := Memory.wf f64 n r.mem = true ∧ r.w < n

/-- The modulation ordinals that can be latched (R256, R258). -/
abbrev latchable (mod : BitVec 4) : Prop :=
  mod = 1#4 ∨ mod = 2#4 ∨ mod = 3#4 ∨ mod = 4#4 ∨ mod = 5#4 ∨ mod = 8#4

/-- The latched configuration of an open stream agrees with itself and with the configuration CSRs,
which cannot have changed since `OPEN` (R28, R256, R257). -/
structure State.Configured (s : State) : Prop where
  status : s.status = .ok
  latched : latchable s.derived.mod
  mod : s.derived.mod = effectiveMod (tagModf s.fmt)
  nout : s.derived.nout = if s.derived.mod = 5#4 then 2#2 else 1#2
  deOnlyForWfm : s.derived.mod ≠ 5#4 → s.derived.de = 0#2
  deNotReserved : s.derived.de ≠ 3#2
  lpfOnlyForWfm : s.derived.lpfon = true → s.derived.mod = 5#4
  difflen : s.derived.difflen = if 248000 ≤ s.fs.toNat then 19#5 else 9#5
  rate : s.fs ≠ 0#32
  channels : s.nch = 2#32
  wfmRate : s.derived.mod = 5#4 → 116000 ≤ s.fs.toNat

/-- The rings of an open stream: each legal for its length, and the three that R37 says "always hold
the same data" do. -/
structure State.RingsLegal (s : State) : Prop where
  ph : Ring.legal s.derived.difflen.toNat s.dp.ph
  dl : Ring.legal params.mpxL s.dp.dl
  pbh : s.dp.pbh = s.dp.dl
  sbh : s.dp.sbh = s.dp.dl
  llh : Ring.legal params.lpfM s.dp.llh
  lrh : Ring.legal params.lpfM s.dp.lrh

/-- The invariant of the machine: a closed block holds its reset values in every derived CSR, datapath
register and ring (R254, D18); an open one holds a legal configuration, legal rings and the constant
centre frequency (R32). -/
structure State.Inv (s : State) : Prop where
  closed : s.ss = .closed →
    s.derived = Derived.reset f64 ∧ s.dp = Datapath.reset f64 documentConsts
  configured : s.ss = .opened → s.Configured
  rings : s.ss = .opened → s.RingsLegal
  fcenter : s.dp.nco.fcenter = documentConsts.pilotHz

/-- `THETA` lies in `(-PI, PI]` or is a NaN (R32, R188). -/
abbrev State.thetaInRange (s : State) : Prop :=
  s.dp.nco.theta.isNaN = true ∨
    (F64.lt F64.pi.neg s.dp.nco.theta = true ∧ F64.le s.dp.nco.theta F64.pi = true)

/-! ## Runs -/

/-- Steps, until `k` are done or one stops. -/
abbrev runSteps (k : Nat) (s : State) : Host.Outcome State Fault Refusal := Sys2Proof.core.run k s

/-- Commands in order, each performed whole (R13, R70). -/
def runInstrs : List Instr → State → Host.Outcome State Fault Refusal
  | [], s => .next s
  | i :: is, s =>
    match exec i s with
    | .next t => runInstrs is t
    | .fault r => .fault r
    | .refused r => .refused r

/-- Block read (R65): the pairs pushed in order, and the sum of the `COUNT` fields answered. -/
def readBlock : List (F64 × F64) → State → Host.Outcome (State × Nat) Fault Refusal
  | [], s => .next (s, 0)
  | (i, q) :: rest, s =>
    match exec (.push i q) s with
    | .fault r => .fault r
    | .refused r => .refused r
    | .next t =>
      match readBlock rest t with
      | .next (u, n) => .next (u, (rspCount t.port.response.rsp).toNat + n)
      | .fault r => .fault r
      | .refused r => .refused r

end Sys2Proof.Machine
end

