-- ==== Sys2Proof/Certificates/Slice0/Obligations.lean ====
section
/-! DEFINITION. The statements for the provers.  Each docstring names the rules of spec/ it formalises,
and the log entry where a statement rests on a choice of the model. -/

open Sys2Proof Sys2Proof.Machine

/-! ## Encodings (spec/30_encoding.md) -/

/-- Decoding the encoding of an instruction gives it back, every operand at every value (R96, R98,
R104). -/
def Obligations.DecodeInvertsEncode : Prop :=
  ∀ i : Instr, decode (encode i) = .instr i

/-- A command triple decodes to an instruction exactly when its command word is the instruction's and
the operands the instruction takes are on the data ports; the other operands are ignored (R96, R98,
R99). -/
def Obligations.DecodeReadsExactlyTheTakenFields : Prop :=
  ∀ (c : Command) (i : Instr), decode c = .instr i ↔
    (c.cmd = (encode i).cmd ∧
      match i with
      | .nop => True
      | .rst => True
      | .wrcsr _ v => c.d0 = v
      | .rdcsr _ => True
      | .check => True
      | .openStream => True
      | .push x y => c.d0 = x.bits ∧ c.d1 = y.bits
      | .closeStream => True)

/-- The decoder agrees with the match and mask patterns of R98: a word that decodes selects exactly one
row, that of the instruction decoded, and a word is refused exactly when it selects no row. -/
def Obligations.DecoderAgreesWithOpcodeTable : Prop :=
  (∀ (c : Command) (i : Instr), decode c = .instr i →
    ∃ r, opcodeTable.filter (fun r => r.selects c.cmd) = [r] ∧ r.mnemonic = i.mnemonic) ∧
  (∀ c : Command, opcodeTable.filter (fun r => r.selects c.cmd) = [] ↔ ∃ e, decode c = .illegal e)

/-- Command words written out from R96 and R98 (spec/95_test_vectors.md 2.1) decode to the commands
they stand for. -/
def Obligations.WrittenOutWordsDecode : Prop :=
  decode ⟨0x00000000#32, 0#64, 0#64⟩ = .instr .nop ∧
  decode ⟨0x10000000#32, 0#64, 0#64⟩ = .instr .rst ∧
  decode ⟨0x20100000#32, 0x2EE00#64, 0#64⟩ = .instr (.wrcsr 0x01#8 192000#64) ∧
  decode ⟨0x32B00000#32, 0#64, 0#64⟩ = .instr (.rdcsr 0x2B#8) ∧
  decode ⟨0x40000000#32, 0#64, 0#64⟩ = .instr .check ∧
  decode ⟨0x50000000#32, 0#64, 0#64⟩ = .instr .openStream ∧
  decode ⟨0x60000000#32, 0x3FF0000000000000#64, 0xBFF0000000000000#64⟩ =
    .instr (.push ⟨0x3FF0000000000000#64⟩ ⟨0xBFF0000000000000#64⟩) ∧
  decode ⟨0x70000000#32, 0#64, 0#64⟩ = .instr .closeStream

/-- `pack` and `unpack` of R95, and that unpacking what was packed gives the fields back, the container
bits masked, for every value the fields can hold. -/
def Obligations.FormatTagUnpacksWhatWasPacked : Prop :=
  ∀ (mod : BitVec 4) (de : BitVec 2) (cont tag : Word32),
    packTag mod de cont =
      (cont &&& 0xFFFFF0CF#32) ||| (mod.setWidth 32 <<< 8) ||| (de.setWidth 32 <<< 4) ∧
    unpackTag tag = (tag.extractLsb' 8 4, tag.extractLsb' 4 2, tag &&& 0xFFFFF0CF#32) ∧
    unpackTag (packTag mod de cont) = (mod, de, cont &&& 0xFFFFF0CF#32)

/-! ## Steps (spec/00_scope.md R13, spec/20_memory.md R70) -/

/-- When the next thing presented is a command that decodes to `i`, the step is the meaning of `i`, run
once the command is off the port; the step adds nothing else (R13, R70, R96). -/
def Obligations.StepRunsTheDecodedCommand : Prop :=
  ∀ (s : State) (c : Command) (rest : List PortEvent) (i : Instr),
    s.port.pending = .command c :: rest → decode c = .instr i →
      step s = exec i { s with port := { s.port with pending := rest } }

/-- "An illegal command word answers `NAK` and changes nothing" (R101): a reserved opcode, a non-zero
bit in `[19:0]`, a CSR number on a command that takes none, or an unassigned CSR number. -/
def Obligations.StepAnswersNakToIllegalWord : Prop :=
  ∀ (s : State) (c : Command) (rest : List PortEvent), s.port.pending = .command c :: rest →
    (8 ≤ (c.cmd.extractLsb' 28 4).toNat ∨ c.cmd.extractLsb' 0 20 ≠ 0#20 ∨
      (c.cmd.extractLsb' 28 4 ≠ 2#4 ∧ c.cmd.extractLsb' 28 4 ≠ 3#4 ∧ c.cmd.extractLsb' 20 8 ≠ 0#8) ∨
      ((c.cmd.extractLsb' 28 4 = 2#4 ∨ c.cmd.extractLsb' 28 4 = 3#4) ∧
        csrAssigned (c.cmd.extractLsb' 20 8) = false)) →
    step s = .next (State.responding { s with port := { s.port with pending := rest } }
      0x00000002#32 0#64 0#64)

/-- With nothing presented the block holds its state (R298), and the `rst` pin gives every piece of the
block's state its reset value (R310).  That the pin answers nothing is the model's choice (log
entries 6 and 9). -/
def Obligations.StepWithoutACommand : Prop :=
  (∀ s : State, s.port.pending = [] → step s = .next s) ∧
  (∀ (s : State) (rest : List PortEvent), s.port.pending = .resetPin :: rest →
    step s = .next { State.reset with port := { s.port with pending := rest } })

/-! ## Reset and the invariant -/

/-- Every piece of state has the value of the table of R40. -/
def Obligations.ResetHoldsTheStatedValues : Prop :=
  let s := State.reset
  let z : F64 := ⟨0#64⟩
  let one : F64 := ⟨0x3FF0000000000000#64⟩
  let pilot : F64 := ⟨0x40D28E0000000000#64⟩
  (s.fmt = 0#32 ∧ s.fs = 0#32 ∧ s.nch = 0#32 ∧ s.width = one ∧ s.lpfen = true ∧
    s.status = .ok ∧ s.ss = .closed) ∧
  s.derived = ⟨0#4, 0#2, 0#2, false, 0#5, z, z, z, z, z, z⟩ ∧
  (s.dp.fmd = ⟨z, z, z⟩ ∧ s.dp.agc = ⟨one, z, .unknown⟩ ∧ s.dp.nco = ⟨z, pilot, pilot, one, z⟩ ∧
    s.dp.ppd = ⟨⟨z, z⟩, ⟨z, z⟩, z⟩ ∧ s.dp.dee = ⟨⟨z, z⟩, ⟨z, z⟩⟩) ∧
  (∀ i : Nat, Memory.read f64 s.dp.ph.mem i = z ∧ Memory.read f64 s.dp.dl.mem i = z ∧
    Memory.read f64 s.dp.pbh.mem i = z ∧ Memory.read f64 s.dp.sbh.mem i = z ∧
    Memory.read f64 s.dp.llh.mem i = z ∧ Memory.read f64 s.dp.lrh.mem i = z) ∧
  (s.dp.ph.w = 0 ∧ s.dp.dl.w = 0 ∧ s.dp.pbh.w = 0 ∧ s.dp.sbh.w = 0 ∧ s.dp.llh.w = 0 ∧
    s.dp.lrh.w = 0)

/-- The state after reset meets the invariant, and its `THETA` is in range. -/
def Obligations.ResetMeetsTheInvariant : Prop :=
  State.reset.Inv ∧ State.reset.thetaInRange

/-- From every state that meets the invariant, every step gives a state that meets it: a closed block
holds its reset values (R254), an open one a legal latched configuration (R28, R256), rings in
canonical form with indices in range (R37, R61), three equal MPX histories (R37), and the constant
centre frequency (R32). -/
def Obligations.StepKeepsTheInvariant : Prop :=
  ∀ s t : State, s.Inv → step s = .next t → t.Inv

/-- Every step keeps `THETA` in `(-PI, PI]`, or a NaN (R32, R188).  It rests on the exact wrap, the
model's reading (log entry 5). -/
def Obligations.StepKeepsThetaInRange : Prop :=
  ∀ s t : State, s.thetaInRange → step s = .next t → t.thetaInRange

/-- From every state that meets the invariant a step answers a next state: no command is refused by the
model, and no error stops a run (R280, R287).  That `NAK` is a next state is the model's choice (log
entry 7). -/
def Obligations.StepNeverStops : Prop :=
  ∀ s : State, s.Inv → ∃ t, step s = .next t

/-! ## Commands on the CSR file (spec/47_facade_commands.md R251 to R254) -/

/-- `NOP` answers `ACK` and changes nothing (R251). -/
def Obligations.NopOnlyAnswersAck : Prop :=
  ∀ s : State, exec .nop s = .next (s.responding 0x00000000#32 0#64 0#64)

/-- `RST` answers `ACK` and gives every piece of the block's state its reset value, in every state
(R252).  That the host's side of the ports stays is the model's choice (log entry 6). -/
def Obligations.RstResetsTheBlock : Prop :=
  ∀ s : State, exec .rst s =
    .next (State.responding { State.reset with port := s.port } 0x00000000#32 0#64 0#64)

/-- `WRCSR` (R253): of each of the five configuration CSRs of a closed block it stores the bits R26 and
R99 name, answers `ACK` and changes nothing else; of any other number, or while the stream is open, it
answers `NAK` and changes nothing. -/
def Obligations.WrcsrWritesTheConfiguration : Prop :=
  ∀ (s : State) (v : Word64),
    (s.ss = .closed →
      exec (.wrcsr 0x00#8 v) s =
        .next (State.responding { s with fmt := v.extractLsb' 0 32 } 0x00000000#32 0#64 0#64) ∧
      exec (.wrcsr 0x01#8 v) s =
        .next (State.responding { s with fs := v.extractLsb' 0 32 } 0x00000000#32 0#64 0#64) ∧
      exec (.wrcsr 0x02#8 v) s =
        .next (State.responding { s with nch := v.extractLsb' 0 32 } 0x00000000#32 0#64 0#64) ∧
      exec (.wrcsr 0x03#8 v) s =
        .next (State.responding { s with width := ⟨v⟩ } 0x00000000#32 0#64 0#64) ∧
      exec (.wrcsr 0x04#8 v) s =
        .next (State.responding { s with lpfen := v.getLsbD 0 } 0x00000000#32 0#64 0#64)) ∧
    (∀ n : BitVec 8, (4 < n.toNat ∨ s.ss = .opened) →
      exec (.wrcsr n v) s = .next (s.responding 0x00000002#32 0#64 0#64))

/-- `RDCSR` of every assigned number answers the value of its CSR, zero-extended, and changes nothing;
of any other number it answers `NAK` (R26 to R29, R254).  The values of `STATUS`, `SS` and `PRES` are
the numbers of R25 and R281. -/
def Obligations.RdcsrAnswersTheCsr : Prop :=
  ∀ s : State,
    (∀ e ∈ ([(0x00#8, s.fmt.setWidth 64), (0x01#8, s.fs.setWidth 64), (0x02#8, s.nch.setWidth 64),
        (0x03#8, s.width.bits), (0x04#8, if s.lpfen then 1#64 else 0#64),
        (0x10#8, match s.status with
          | .ok => 0#64
          | .unrecognizedFormat => 1#64
          | .sampleRateTooLow => 2#64
          | .channelCountMismatch => 3#64),
        (0x11#8, match s.ss with
          | .closed => 0#64
          | .opened => 1#64),
        (0x12#8, s.derived.mod.setWidth 64), (0x13#8, s.derived.de.setWidth 64),
        (0x14#8, s.derived.nout.setWidth 64), (0x15#8, if s.derived.lpfon then 1#64 else 0#64),
        (0x16#8, s.derived.difflen.setWidth 64), (0x17#8, s.derived.fmgain.bits),
        (0x18#8, s.derived.agcinc.bits), (0x19#8, s.derived.agcdec.bits),
        (0x1A#8, s.derived.sgain.bits), (0x1B#8, s.derived.dep1.bits),
        (0x1C#8, s.derived.dez1.bits),
        (0x20#8, match s.dp.agc.pres with
          | .unknown => 0#64
          | .present => 1#64
          | .notPresent => 2#64),
        (0x21#8, s.dp.agc.gain.bits), (0x22#8, s.dp.agc.peak.bits), (0x23#8, s.dp.nco.theta.bits),
        (0x24#8, s.dp.nco.ftrack.bits), (0x25#8, s.dp.nco.fcenter.bits),
        (0x26#8, s.dp.nco.cosc.bits), (0x27#8, s.dp.nco.sinc.bits), (0x28#8, s.dp.fmd.phase.bits),
        (0x29#8, s.dp.fmd.z1i.bits), (0x2A#8, s.dp.fmd.z1q.bits),
        (0x2B#8, s.dp.ppd.perr.bits)] : List (BitVec 8 × Word64)),
      exec (.rdcsr e.1) s = .next (s.responding 0x00000000#32 e.2 0#64)) ∧
    (∀ n : BitVec 8,
      ((0x04 < n.toNat ∧ n.toNat < 0x10) ∨ (0x1C < n.toNat ∧ n.toNat < 0x20) ∨ 0x2B < n.toNat) →
      exec (.rdcsr n) s = .next (s.responding 0x00000002#32 0#64 0#64))

/-- "What is read back is what was written" (R26): a configuration write to a closed block followed by
a read of the same number answers the written field. -/
def Obligations.ConfigurationReadsBack : Prop :=
  ∀ (s : State) (v : Word64), s.ss = .closed →
    ∀ e ∈ ([(0x00#8, (v.extractLsb' 0 32).setWidth 64), (0x01#8, (v.extractLsb' 0 32).setWidth 64),
        (0x02#8, (v.extractLsb' 0 32).setWidth 64), (0x03#8, v),
        (0x04#8, (v.extractLsb' 0 1).setWidth 64)] : List (BitVec 8 × Word64)),
      ∃ t u, exec (.wrcsr e.1 v) s = .next t ∧ exec (.rdcsr e.1) t = .next u ∧
        u.port.response = ⟨0x00000000#32, e.2, 0#64⟩

/-! ## The check and the life of a stream (R250, R255 to R259) -/

/-- `CHECK` of a closed block judges the configuration in the order of R256 and writes nothing but
`STATUS`; of an open one it answers `NAK` (R255, R256, R288). -/
def Obligations.CheckJudgesInOrder : Prop :=
  ∀ s : State,
    let mod := s.fmt.extractLsb' 8 4
    let wfm := mod = 5#4 ∨ mod = 6#4
    let unsupported := mod = 0#4 ∨ mod = 7#4 ∨ 9 ≤ mod.toNat ∨
      (wfm ∧ (s.fmt.extractLsb' 4 2 = 3#2 ∨
        ¬ (F64.le ⟨0x0000000000000000#64⟩ s.width = true ∧
          F64.le s.width ⟨0x3FF0000000000000#64⟩ = true)))
    exec .check s =
      if s.ss = .opened then .next (s.responding 0x00000002#32 0#64 0#64)
      else if s.fs = 0#32 then
        .next (State.responding { s with status := .unrecognizedFormat } 0x00000001#32 1#64 0#64)
      else if s.nch ≠ 2#32 then
        .next (State.responding { s with status := .channelCountMismatch } 0x00000001#32 3#64 0#64)
      else if wfm ∧ s.fs.toNat < 116000 then
        .next (State.responding { s with status := .sampleRateTooLow } 0x00000001#32 2#64 0#64)
      else if unsupported then .next (s.responding 0x00000002#32 0#64 0#64)
      else .next (State.responding { s with status := .ok } 0x00000000#32 0#64 0#64)

/-- `OPEN` contains the check: where `CHECK` of a closed block would not answer `ACK`, `OPEN` does
exactly what `CHECK` does, and the stream stays closed (R257, R290). -/
def Obligations.OpenFailsAsCheckDoes : Prop :=
  ∀ s t : State, s.ss = .closed → exec .check s = .next t →
    t.port.response.rsp ≠ 0x00000000#32 →
      exec .openStream s = .next t ∧ t.ss = .closed

/-- `OPEN` of a legal configuration that is not wide-band FM latches the derived configuration and
creates the stream (R141, R143, R257). -/
def Obligations.OpenLatchesNarrowband : Prop :=
  ∀ s : State, s.ss = .closed → s.fs ≠ 0#32 → s.nch = 2#32 →
    ∀ mod : BitVec 4, s.fmt.extractLsb' 8 4 = mod →
      (mod = 1#4 ∨ mod = 2#4 ∨ mod = 3#4 ∨ mod = 4#4 ∨ mod = 8#4) →
    let z : F64 := ⟨0#64⟩
    exec .openStream s = .next (State.responding { s with
      status := .ok
      ss := .opened
      derived :=
        { mod := mod, de := 0#2, nout := 1#2, lpfon := false
          difflen := if 248000 ≤ s.fs.toNat then 19#5 else 9#5
          fmgain := if 300000 < s.fs.toNat
            then F64.mul ⟨0x3FF199999999999A#64⟩ (F64.div (F64.ofNat s.fs.toNat) (F64.ofNat 300000))
            else ⟨0x3FF199999999999A#64⟩
          agcinc := z, agcdec := z, sgain := z, dep1 := z, dez1 := z }
      dp := State.reset.dp } 0x00000000#32 0#64 0#64)

/-- `OPEN` of a legal wide-band FM configuration latches the derived configuration, the no-lowpass
variant normalised to plain WFM, and creates the stream (R94, R141, R143, R176, R211, R226, R257). -/
def Obligations.OpenLatchesWideband : Prop :=
  ∀ s : State, s.ss = .closed → 116000 ≤ s.fs.toNat → s.nch = 2#32 →
    (s.fmt.extractLsb' 8 4 = 5#4 ∨ s.fmt.extractLsb' 8 4 = 6#4) → s.fmt.extractLsb' 4 2 ≠ 3#2 →
    F64.le ⟨0x0000000000000000#64⟩ s.width = true → F64.le s.width ⟨0x3FF0000000000000#64⟩ = true →
    let z : F64 := ⟨0#64⟩
    let one : F64 := ⟨0x3FF0000000000000#64⟩
    let rate := F64.ofNat s.fs.toNat
    let de : BitVec 2 := s.fmt.extractLsb' 4 2
    let tau := F64.lit (if de = 1#2 then 50 else 75) 1
    let dep1 := F64.sub z (Config.numExp (F64.div (F64.sub z one)
      (F64.mul (F64.mul rate tau) (F64.lit 1 1000000))))
    exec .openStream s = .next (State.responding { s with
      status := .ok
      ss := .opened
      derived :=
        { mod := 5#4, de := de, nout := 2#2
          lpfon := s.lpfen && decide (s.fmt.extractLsb' 8 4 = 5#4)
          difflen := if 248000 ≤ s.fs.toNat then 19#5 else 9#5
          fmgain := if 300000 < s.fs.toNat
            then F64.mul (F64.lit 11 10) (F64.div rate (F64.ofNat 300000)) else F64.lit 11 10
          agcinc := Config.numPow10 (F64.div (F64.lit 64 1) (F64.mul (F64.lit 20 1) rate))
          agcdec := Config.numPow10
            (F64.div (F64.sub z (F64.lit 12 1)) (F64.mul (F64.lit 20 1) rate))
          sgain := F64.div one (F64.add one s.width)
          dep1 := if de = 0#2 then z else dep1
          dez1 := if de = 0#2 then z else F64.div (F64.add one dep1) (F64.lit 5 1) }
      dp := State.reset.dp } 0x00000000#32 0#64 0#64)

/-- Which commands each stream state accepts, with which kinds of response, and the stream state after:
the table of R250. -/
def Obligations.StreamStateDecidesAcceptance : Prop :=
  ∀ (s t : State) (i : Instr), s.Inv → exec i s = .next t →
    let ack := rspKind t.port.response.rsp = 0#2
    let err := rspKind t.port.response.rsp = 1#2
    let nak := rspKind t.port.response.rsp = 2#2
    let count := rspCount t.port.response.rsp
    (s.ss = .closed →
      match i with
      | .nop => ack ∧ t.ss = .closed
      | .rst => ack ∧ t.sameBlock State.reset ∧ t.ss = .closed
      | .wrcsr n _ => (if n.toNat ≤ 4 then ack else nak) ∧ t.ss = .closed
      | .rdcsr n => (if csrAssigned n then ack else nak) ∧ t.ss = .closed
      | .check => (ack ∨ err ∨ nak) ∧ t.ss = .closed
      | .openStream => (ack ∧ t.ss = .opened) ∨ ((err ∨ nak) ∧ t.ss = .closed)
      | .push _ _ => nak ∧ t.ss = .closed
      | .closeStream => ack ∧ s.sameBlock t ∧ t.ss = .closed) ∧
    (s.ss = .opened →
      match i with
      | .nop => ack ∧ t.ss = .opened
      | .rst => ack ∧ t.sameBlock State.reset ∧ t.ss = .closed
      | .wrcsr _ _ => nak ∧ t.ss = .opened
      | .rdcsr n => (if csrAssigned n then ack else nak) ∧ t.ss = .opened
      | .check => nak ∧ t.ss = .opened
      | .openStream => nak ∧ t.ss = .opened
      | .push _ _ => ack ∧ (count = 1#2 ∨ count = 2#2) ∧ t.ss = .opened
      | .closeStream => ack ∧ t.ss = .closed)

/-- `CLOSE` of an open stream gives every derived CSR, datapath register, ring element and index its
reset value and keeps the configuration and `STATUS`; of a closed block it changes nothing (R259). -/
def Obligations.CloseDiscardsTheStream : Prop :=
  (∀ s : State, s.ss = .opened → exec .closeStream s = .next (State.responding
    { s with ss := .closed, derived := State.reset.derived, dp := State.reset.dp }
    0x00000000#32 0#64 0#64)) ∧
  (∀ s : State, s.ss = .closed →
    exec .closeStream s = .next (s.responding 0x00000000#32 0#64 0#64))

/-- "After `CLOSE` nothing of the old stream can influence a new one" (R259): two blocks with the same
configuration CSRs, whatever their streams hold, are in the same state after `CLOSE` and a successful
`OPEN`. -/
def Obligations.OldStreamCannotReachANewOne : Prop :=
  ∀ s u t v : State, s.Inv → u.Inv →
    s.fmt = u.fmt → s.fs = u.fs → s.nch = u.nch → s.width = u.width → s.lpfen = u.lpfen →
    runInstrs [.closeStream, .openStream] s = .next t →
    runInstrs [.closeStream, .openStream] u = .next v → t.ss = .opened → t.sameBlock v

/-- While a stream stays open no step changes a configuration CSR or the latched configuration (R26,
R28, R72, R319). -/
def Obligations.ConfigurationIsFrozenWhileOpen : Prop :=
  ∀ s t : State, s.ss = .opened → step s = .next t → t.ss = .opened →
    t.fmt = s.fmt ∧ t.fs = s.fs ∧ t.nch = s.nch ∧ t.width = s.width ∧ t.lpfen = s.lpfen ∧
      t.derived = s.derived

/-- A command answered `NAK` has changed nothing but the response (R97, R286).  That `NAK` is a next
state is the model's choice (log entry 7). -/
def Obligations.NakChangesNoState : Prop :=
  ∀ (s t : State) (i : Instr), exec i s = .next t → rspKind t.port.response.rsp = 2#2 →
    t = s.responding 0x00000002#32 0#64 0#64

/-- A command answered `ERR` is a `CHECK` or an `OPEN` that found an error condition; it has written
`STATUS` and nothing else, so the stream stays closed, and answers the code (R281, R290). -/
def Obligations.ErrorWritesOnlyStatus : Prop :=
  ∀ (s t : State) (i : Instr), exec i s = .next t → rspKind t.port.response.rsp = 1#2 →
    (i = .check ∨ i = .openStream) ∧ s.ss = .closed ∧
      ((t = State.responding { s with status := .unrecognizedFormat } 0x00000001#32 1#64 0#64 ∧
          s.fs = 0#32) ∨
        (t = State.responding { s with status := .sampleRateTooLow } 0x00000001#32 2#64 0#64 ∧
          s.fs.toNat < 116000) ∨
        (t = State.responding { s with status := .channelCountMismatch } 0x00000001#32 3#64 0#64 ∧
          s.nch ≠ 2#32))

/-! ## `PUSH` (R258) -/

/-- `PUSH` dispatches by the latched modulation to the unit operations of R258. -/
def Obligations.PushDispatchesByModulation : Prop :=
  ∀ (s : State) (i q : F64),
    (s.ss = .closed → exec (.push i q) s = .next (s.responding 0x00000002#32 0#64 0#64)) ∧
    (s.ss = .opened → s.derived.mod = 1#4 →
      let y := fmdStep f64 params s.setup s.dp i q
      exec (.push i q) s =
        .next (State.delivering { s with dp := y.1 } 0x00000004#32 y.2.bits 0#64 [y.2])) ∧
    (s.ss = .opened → s.derived.mod = 2#4 →
      let y := amdStep f64 documentConsts i q
      exec (.push i q) s = .next (s.delivering 0x00000004#32 y.bits 0#64 [y])) ∧
    (s.ss = .opened → (s.derived.mod = 3#4 ∨ s.derived.mod = 4#4 ∨ s.derived.mod = 8#4) →
      let y := ssbStep i q
      exec (.push i q) s = .next (s.delivering 0x00000004#32 y.bits 0#64 [y])) ∧
    (s.ss = .opened → s.derived.mod = 5#4 →
      let x := fmdStep f64 params s.setup s.dp i q
      let m := mpxStep f64 params s.setup x.1 x.2
      let l := deeStep f64 params s.derived m.1.dee .left m.2.1
      let r := deeStep f64 params s.derived l.1 .right m.2.2
      exec (.push i q) s =
        if s.derived.de = 0#2 then
          .next (State.delivering { s with dp := m.1 } 0x00000008#32 m.2.1.bits m.2.2.bits
            [m.2.1, m.2.2])
        else
          .next (State.delivering { s with dp := { m.1 with dee := r.1 } } 0x00000008#32
            l.2.bits r.2.bits [l.2, r.2]))

/-- An `AM` stream answers `0.7071 * sqrt(I * I + Q * Q)` and changes no state of the block; the zero
pair gives exactly 0 and the pair (1, 0) the constant (R165). -/
def Obligations.AmAnswersTheScaledEnvelope : Prop :=
  (∀ (s : State) (i q : F64), s.ss = .opened → s.derived.mod = 2#4 →
    let y := F64.mul ⟨0x3FE6A0902DE00D1B#64⟩ (F64.sqrt (F64.add (F64.mul i i) (F64.mul q q)))
    exec (.push i q) s = .next (s.delivering 0x00000004#32 y.bits 0#64 [y])) ∧
  amdStep f64 documentConsts ⟨0#64⟩ ⟨0#64⟩ = ⟨0#64⟩ ∧
  amdStep f64 documentConsts ⟨0x3FF0000000000000#64⟩ ⟨0#64⟩ = ⟨0x3FE6A0902DE00D1B#64⟩

/-- An `LSB`, `USB` or `CW` stream answers the bit pattern of `I`, whatever it is, and changes no state
of the block (R166). -/
def Obligations.SidebandPassesTheInPhaseSample : Prop :=
  ∀ (s : State) (i q : F64), s.ss = .opened →
    (s.derived.mod = 3#4 ∨ s.derived.mod = 4#4 ∨ s.derived.mod = 8#4) →
    exec (.push i q) s = .next (s.delivering 0x00000004#32 i.bits 0#64 [i])

/-- An `NFM` stream adds the angle of `z0 * conj(z1)` to the phase, keeps the pair, pushes the phase and
answers the scaled convolution of the phase history, and changes nothing else (R145, R156, R157). -/
def Obligations.NfmAnswersTheDifferentiatedPhase : Prop :=
  ∀ (s : State) (i q : F64), s.ss = .opened → s.derived.mod = 1#4 →
    let re := F64.add (F64.mul i s.dp.fmd.z1i) (F64.mul q s.dp.fmd.z1q)
    let im := F64.sub (F64.mul q s.dp.fmd.z1i) (F64.mul i s.dp.fmd.z1q)
    let phase := F64.add s.dp.fmd.phase (Config.numArg im re)
    let n := s.derived.difflen.toNat
    let ph := memWrite f64 n s.dp.ph.mem s.dp.ph.w phase
    let y := F64.mul s.derived.fmgain
      (convolve f64
        (if s.derived.difflen = 19#5 then Config.kernel19.toList else Config.kernel9.toList)
        (fun k => memRead f64 n ph ((s.dp.ph.w : Int) - k)))
    exec (.push i q) s = .next (State.delivering { s with
        dp := { s.dp with fmd := ⟨i, q, phase⟩, ph := ⟨ph, (s.dp.ph.w + 1) % n⟩ } }
      0x00000004#32 y.bits 0#64 [y])

/-- A stream that is not wide-band FM touches no AGC, NCO, phase detector, de-emphasis or MPX state, and
`AM`, `LSB`, `USB` and `CW` streams touch no datapath state at all (R30, R165, R166, R195). -/
def Obligations.NarrowbandLeavesTheDecoderAlone : Prop :=
  ∀ (s t : State) (i q : F64), exec (.push i q) s = .next t → s.derived.mod ≠ 5#4 →
    t = { s with dp := { s.dp with fmd := t.dp.fmd, ph := t.dp.ph }, port := t.port } ∧
    (s.derived.mod ≠ 1#4 → t.dp = s.dp)

/-- A block read of `p` pairs on an open stream answers `2 * p` samples on a WFM stream and `p` on any
other, all of which join the output stream (R64, R65, R260). -/
def Obligations.BlockReadCountsItsSamples : Prop :=
  ∀ (pairs : List (F64 × F64)) (s : State), s.Inv → s.ss = .opened →
    let count := if s.derived.mod = 5#4 then 2 * pairs.length else pairs.length
    ∃ t, readBlock pairs s = .next (t, count) ∧
      t.port.output.length = s.port.output.length + count ∧
      t.Inv ∧ t.ss = .opened

/-! ## Filters (spec/40_filter_primitives.md, spec/20_memory.md) -/

/-- A push advances the write index modulo the length; after it the newest element is `MemRead(w - 1)`, and every element pushed before it is one place
further back, until it is overwritten (R62). -/
def Obligations.RingKeepsTheLastSamples : Prop :=
  ∀ (n : Nat) (r : Machine.Ring F64) (v : F64), Ring.legal n r →
    Ring.legal n (ringPush f64 n r v) ∧ (ringPush f64 n r v).w = (r.w + 1) % n ∧
    memRead f64 n (ringPush f64 n r v).mem (((ringPush f64 n r v).w : Int) - 1) = v ∧
    ∀ k : Nat, k + 1 < n →
      memRead f64 n (ringPush f64 n r v).mem (((ringPush f64 n r v).w : Int) - 1 - (k + 1)) =
        memRead f64 n r.mem ((r.w : Int) - 1 - k)

/-- After pushes of `x[0], ..., x[n]`, `FIR.GET` is the sum over `k`, upward from 0, of
`h[k] * x[n - k]`, with `x[m] = 0` for `m < 0` (R126). -/
def Obligations.FirConvolvesItsHistory : Prop :=
  ∀ (h xs : List F64), 0 < h.length →
    firGet f64 h.length h (xs.foldl (fun r x => firPush f64 h.length r x) Ring.reset) =
      (List.range h.length).foldl
        (fun acc k => F64.add acc (F64.mul (h.getD k ⟨0#64⟩) (xs.reverse.getD k ⟨0#64⟩))) ⟨0#64⟩

/-- `DLY.STEP` answers the sample pushed `DLY_D = (MPX_L - 1) / 2` pushes earlier, and 0 before there is
one (R130, R131). -/
def Obligations.DelayLineAnswersTheCentreTap : Prop :=
  ∀ (P : Params F64) (xs : List F64) (x : F64),
    (dlyStep f64 P (xs.foldl (fun r y => (dlyStep f64 P r y).1) Ring.reset) x).2 =
      (x :: xs.reverse).getD ((P.mpxL - 1) / 2) ⟨0#64⟩

/-- `DIFF.STEP` after the phases `p[0], ..., p[n]` answers `FMGAIN` times the sum over `k` of
`KERNEL[k] * p[n - k]`, with `p[m] = 0` for `m < 0` (R145). -/
def Obligations.DifferentiatorConvolvesThePhases : Prop :=
  ∀ (P : Params F64) (E : Setup F64) (ps : List F64) (p : F64),
    (E.derived.difflen = 19#5 ∨ E.derived.difflen = 9#5) →
    (diffStep f64 P E (ps.foldl (fun r x => (diffStep f64 P E r x).1) Ring.reset) p).2 =
      F64.mul E.derived.fmgain
        ((List.range E.derived.difflen.toNat).foldl
          (fun acc k => F64.add acc (F64.mul ((kernelOf P E.derived.difflen).getD k ⟨0#64⟩)
            ((p :: ps.reverse).getD k ⟨0#64⟩))) ⟨0#64⟩)

/-- `BIQ.STEP` is the transposed direct form II of R121, the new `z1` from the old `z2`. -/
def Obligations.BiquadIsTransposedDirectForm : Prop :=
  ∀ (c : Biquad F64) (s : BiqState F64) (x : F64),
    let y := F64.add (F64.mul c.b0 x) s.z1
    biqStep f64 c s x =
      (⟨F64.add (F64.sub (F64.mul c.b1 x) (F64.mul c.a1 y)) s.z2,
        F64.sub (F64.mul c.b2 x) (F64.mul c.a2 y)⟩, y)

/-- In the ideal instance the outputs of a biquad from the zero state satisfy the difference equation of
R120, with `x[n] = y[n] = 0` for `n < 0` (R122). -/
def Obligations.IdealBiquadMeetsItsDifferenceEquation : Prop :=
  ∀ (c : Biquad ℝ) (xs : List ℝ) (n : Nat), n < xs.length →
    let ys := biqRun ideal c ⟨0, 0⟩ xs
    let past := fun (l : List ℝ) (k : Nat) => if k ≤ n then l.getD (n - k) 0 else 0
    past ys 0 = c.b0 * past xs 0 + c.b1 * past xs 1 + c.b2 * past xs 2
      - c.a1 * past ys 1 - c.a2 * past ys 2

/-- In the ideal instance `N` equal pushes `c` on any history give `FMGAIN * c * sum(KERNEL)` at the
last, which is 0 for a kernel that sums to zero (R142, R146). -/
def Obligations.IdealDifferentiatorRejectsAConstant : Prop :=
  ∀ (P : Params ℝ) (E : Setup ℝ) (r : Machine.Ring ℝ) (c : ℝ),
    (E.derived.difflen = 19#5 ∨ E.derived.difflen = 9#5) →
    Memory.wf ideal E.derived.difflen.toNat r.mem = true → r.w < E.derived.difflen.toNat →
    let y := (diffStep ideal P E
      ((List.replicate (E.derived.difflen.toNat - 1) c).foldl
        (fun r x => (diffStep ideal P E r x).1) r) c).2
    y = E.derived.fmgain * c * (kernelOf P E.derived.difflen).sum ∧
    (sumsToZero (kernelOf P E.derived.difflen) → y = 0)

/-! ## De-emphasis (spec/43_deemphasis.md) -/

/-- `DEE.STEP` of a channel, expanded, with `b1` by the parameter `DEE_B1_IS_Z1` (R177, R178; log
entry 3); the other channel's state does not change. -/
def Obligations.DeemphasisFiltersEachChannelApart : Prop :=
  ∀ (D : Derived F64) (r : DeeRegs F64) (x : F64),
    let z : F64 := ⟨0#64⟩
    let b1 := if Config.deeB1IsZ1 then D.dez1 else z
    (let y := F64.add (F64.mul D.dez1 x) r.l.z1
     deeStep f64 params D r .left x =
      (⟨⟨F64.add (F64.sub (F64.mul b1 x) (F64.mul D.dep1 y)) r.l.z2,
         F64.sub (F64.mul z x) (F64.mul z y)⟩, r.r⟩, y)) ∧
    (let y := F64.add (F64.mul D.dez1 x) r.r.z1
     deeStep f64 params D r .right x =
      (⟨r.l, ⟨F64.add (F64.sub (F64.mul b1 x) (F64.mul D.dep1 y)) r.r.z2,
         F64.sub (F64.mul z x) (F64.mul z y)⟩⟩, y))

/-- Without de-emphasis a `PUSH` leaves the de-emphasis registers alone, and on a WFM stream answers the
samples of `MPX.STEP` bit for bit (R175, R179). -/
def Obligations.DeemphasisIsBypassedWhenOff : Prop :=
  ∀ (s t : State) (i q : F64), s.derived.de = 0#2 → exec (.push i q) s = .next t →
    t.dp.dee = s.dp.dee ∧
    (s.ss = .opened → s.derived.mod = 5#4 →
      let x := fmdStep f64 params s.setup s.dp i q
      let m := mpxStep f64 params s.setup x.1 x.2
      t.port.response = ⟨0x00000008#32, m.2.1.bits, m.2.2.bits⟩)

/-! ## Oscillator and loop (spec/44_nco_pll.md) -/

/-- `NCO.SYNC` advances with the old tracked frequency, refreshes the cache from the new phase, detects
with the new cosine and closes the loop, in that order; the doubled and tripled outputs read the cache
(R187, R188, R189, R190, R191, R192, R193).  The wrap is the model's exact one (log entry 5). -/
def Obligations.SyncAdvancesDetectsAndCloses : Prop :=
  ∀ (fs : Word32) (n : NcoRegs F64) (r : PpdRegs F64) (p : F64),
    let theta := F64.wrap (F64.add n.theta
      (F64.div (F64.mul ⟨0x401921FB54442D18#64⟩ n.ftrack) (F64.ofNat fs.toNat)))
    let cosc := Config.numCos theta
    let sinc := Config.numSin theta
    let u := biqStep f64 Config.lf1 r.lf1 (F64.mul cosc p)
    let e := biqStep f64 Config.lf2 r.lf2 u.2
    let n' : NcoRegs F64 :=
      ⟨theta, n.fcenter, F64.add n.fcenter (F64.mul (F64.lit 10 1) e.2), cosc, sinc⟩
    ncoSync f64 params fs n r p = (n', ⟨u.1, e.1, e.2⟩) ∧
    ncoX2 f64 n' = F64.mul (F64.mul (F64.lit 2 1) cosc) sinc ∧
    ncoX3 f64 n' =
      F64.mul (F64.sub (F64.mul (F64.mul (F64.lit 4 1) cosc) cosc) (F64.lit 1 1)) sinc

/-- In the ideal instance the doubled and tripled outputs after a sync are the sines of twice and of
three times the phase (R192, R193). -/
def Obligations.IdealHarmonicsAreMultiplesOfThePhase : Prop :=
  ∀ (fs : Word32) (n : NcoRegs ℝ),
    let n' := ncoAdvance ideal idealNum fs n
    ncoX2 ideal n' = Real.sin (2 * n'.theta) ∧ ncoX3 ideal n' = Real.sin (3 * n'.theta)

/-- The wrap of a finite phase is finite, in `(-PI, PI]`, and differs from it by a whole number of turns
exactly; of a non-finite phase it is a NaN.  That the difference is exact, and not the outcome of
repeated rounded subtractions, is the model's reading (R188, D28; log entry 5). -/
def Obligations.WrapIsExactAndInRange : Prop :=
  ∀ t : F64,
    (t.isFinite = true →
      (F64.wrap t).isFinite = true ∧
      F64.lt F64.pi.neg (F64.wrap t) = true ∧ F64.le (F64.wrap t) F64.pi = true ∧
      ∃ k : Int, (F64.wrap t).toInt = t.toInt - k * F64.twoPi.toInt) ∧
    (t.isFinite = false → (F64.wrap t).isNaN = true)

/-- In the ideal instance the wrap is the unique value in `(-pi, pi]` congruent to `t` modulo `2*pi`
(R188). -/
def Obligations.IdealWrapIsTheUniqueRepresentative : Prop :=
  ∀ t u : ℝ, (ideal.wrap t = u) ↔
    (-Real.pi < u ∧ u ≤ Real.pi ∧ ∃ k : ℤ, t - u = k * (2 * Real.pi))

/-! ## AGC (spec/45_agc.md) -/

/-- `AGC.STEP` multiplies by the old gain, tracks the running maximum of the gained sample, and takes
exactly the branch of R213 that applies first (R212, R213, R216). -/
def Obligations.AgcTakesTheFirstBranchThatApplies : Prop :=
  ∀ (D : Derived F64) (g : AgcRegs F64) (r : F64),
    let p := F64.mul g.gain r
    let peak := if F64.lt g.peak (F64.abs p) then F64.abs p else g.peak
    agcStep f64 documentConsts D g r =
      (if F64.le ⟨0x402E000000000000#64⟩ g.gain then ⟨⟨0x402E000000000000#64⟩, peak, .notPresent⟩
        else if F64.lt peak ⟨0x3FEE666666666666#64⟩ then ⟨F64.mul g.gain D.agcinc, peak, g.pres⟩
        else if F64.lt ⟨0x3FF0CCCCCCCCCCCD#64⟩ peak then
          ⟨F64.mul g.gain D.agcdec, F64.mul peak D.agcdec, g.pres⟩
        else ⟨g.gain, peak, .present⟩, p)

/-- Branch 1 latches: once the gain is 15 or more, after any frames at all the gain is 15, the pilot is
`NotPresent`, and the peak has not fallen (R214 item 1). -/
def Obligations.AgcLatchesAtTheClamp : Prop :=
  ∀ (D : Derived F64) (g : AgcRegs F64) (rs : List F64), rs ≠ [] →
    F64.le ⟨0x402E000000000000#64⟩ g.gain = true →
    let g' := rs.foldl (fun g r => (agcStep f64 documentConsts D g r).1) g
    g'.gain = ⟨0x402E000000000000#64⟩ ∧ g'.pres = .notPresent ∧ F64.lt g'.peak g.peak = false

/-- Branch 4 latches while the signal does not grow: from a gain below the clamp and a peak in the stable
band, frames whose gained magnitude does not exceed 1.05 leave the gain as it is, the peak the running
maximum of itself and those magnitudes, still in the band, and the pilot `Present`; frames that do not
exceed the peak itself leave the peak as it is too (R214 item 2). -/
def Obligations.AgcStaysStableWhileTheSignalDoesNotGrow : Prop :=
  ∀ (D : Derived F64) (g : AgcRegs F64) (rs : List F64), rs ≠ [] →
    F64.le ⟨0x402E000000000000#64⟩ g.gain = false →
    F64.lt g.peak ⟨0x3FEE666666666666#64⟩ = false → F64.lt ⟨0x3FF0CCCCCCCCCCCD#64⟩ g.peak = false →
    (∀ r ∈ rs, F64.lt ⟨0x3FF0CCCCCCCCCCCD#64⟩ (F64.abs (F64.mul g.gain r)) = false) →
    let peak := rs.foldl (fun m r =>
      if F64.lt m (F64.abs (F64.mul g.gain r)) then F64.abs (F64.mul g.gain r) else m) g.peak
    rs.foldl (fun g r => (agcStep f64 documentConsts D g r).1) g = ⟨g.gain, peak, .present⟩ ∧
    F64.lt peak ⟨0x3FEE666666666666#64⟩ = false ∧ F64.lt ⟨0x3FF0CCCCCCCCCCCD#64⟩ peak = false ∧
    ((∀ r ∈ rs, F64.lt g.peak (F64.abs (F64.mul g.gain r)) = false) → peak = g.peak)

/-- A `PUSH` never takes the pilot presence back to `Unknown` (R214 item 3). -/
def Obligations.PresenceNeverReturnsToUnknown : Prop :=
  ∀ (s t : State) (i q : F64), exec (.push i q) s = .next t → s.dp.agc.pres ≠ .unknown →
    t.dp.agc.pres ≠ .unknown

/-! ## MPX decoder (spec/46_mpx_decoder.md) -/

/-- A frame feeds the delay line and both band-pass histories and runs the AGC; if the pilot is then not
`Present` it answers `(mono, mono)`, the delay line's centre tap, and touches neither the oscillator,
the loop, the phase detector nor the final lowpass (R195, R229). -/
def Obligations.MonoFrameCollapsesToTheDelayLine : Prop :=
  ∀ (E : Setup F64) (d : Datapath F64) (x : F64),
    let pbh := ringPush f64 params.mpxL d.pbh x
    let agc := agcStep f64 documentConsts E.derived d.agc
      (firGet f64 params.mpxL Config.hPilot.toList pbh)
    agc.1.pres ≠ .present →
    let mono := (dlyStep f64 params d.dl x).2
    mpxStep f64 params E d x =
      ({ d with
          agc := agc.1
          dl := ringPush f64 params.mpxL d.dl x
          pbh := pbh
          sbh := ringPush f64 params.mpxL d.sbh x }, mono, mono)

/-- A frame whose pilot is `Present` syncs the oscillator with the gained pilot, demodulates the side
signal with the doubled output, rebuilds left and right, and lowpasses them where the stage is on
(R227, R230, R231). -/
def Obligations.StereoFrameRebuildsLeftAndRight : Prop :=
  ∀ (E : Setup F64) (d : Datapath F64) (x : F64),
    let pbh := ringPush f64 params.mpxL d.pbh x
    let sbh := ringPush f64 params.mpxL d.sbh x
    let agc := agcStep f64 documentConsts E.derived d.agc
      (firGet f64 params.mpxL Config.hPilot.toList pbh)
    agc.1.pres = .present →
    let mono := (dlyStep f64 params d.dl x).2
    let sync := ncoSync f64 params E.fs d.nco d.ppd agc.2
    let side := F64.mul (F64.mul (F64.lit 5 1) (F64.mul (F64.mul (F64.lit 2 1) sync.1.cosc) sync.1.sinc))
      (firGet f64 params.mpxL Config.hSide.toList sbh)
    let left := F64.mul E.derived.sgain (F64.add mono (F64.mul E.width side))
    let right := F64.mul E.derived.sgain (F64.sub mono (F64.mul E.width side))
    let d' : Datapath F64 := { d with
      agc := agc.1, nco := sync.1, ppd := sync.2
      dl := ringPush f64 params.mpxL d.dl x, pbh := pbh, sbh := sbh }
    mpxStep f64 params E d x =
      if E.derived.lpfon then
        let llh := ringPush f64 params.lpfM d.llh left
        let lrh := ringPush f64 params.lpfM d.lrh right
        ({ d' with llh := llh, lrh := lrh },
          firGet f64 params.lpfM Config.hLpf.toList llh, firGet f64 params.lpfM Config.hLpf.toList lrh)
      else (d', left, right)

/-- In every `PUSH` after which the pilot is not `Present`, no oscillator, phase detector or loop
register changes: "the oscillator is frozen, not free-running"; in one of a WFM stream after which it
is, the loop runs once, from the registers as they were, on the gained pilot (R195). -/
def Obligations.OscillatorRunsOnlyWithAPilot : Prop :=
  ∀ (s t : State) (i q : F64), exec (.push i q) s = .next t →
    (t.dp.agc.pres ≠ .present → t.dp.nco = s.dp.nco ∧ t.dp.ppd = s.dp.ppd) ∧
    (t.dp.agc.pres = .present → s.ss = .opened → s.derived.mod = 5#4 →
      let x := (fmdStep f64 params s.setup s.dp i q).2
      let pilot := F64.mul s.dp.agc.gain (firGet f64 params.mpxL Config.hPilot.toList
        (ringPush f64 params.mpxL s.dp.pbh x))
      (t.dp.nco, t.dp.ppd) = ncoSync f64 params s.fs s.dp.nco s.dp.ppd pilot)

/-- In the ideal instance left and right sum to `2*SGAIN*mono` whatever the side is, and at full width
the matrix gives back the two channels of `mono = L+R`, `side = L-R` (R226, R230). -/
def Obligations.IdealStereoMatrixRecoversTheChannels : Prop :=
  (∀ (E : Setup ℝ) (mono side : ℝ),
    mpxLeft ideal E mono side + mpxRight ideal E mono side = 2 * E.derived.sgain * mono) ∧
  (∀ (E : Setup ℝ) (l r : ℝ), E.width = 1 → E.derived.sgain = stereoGain ideal E.width →
    mpxLeft ideal E (l + r) (l - r) = l ∧ mpxRight ideal E (l + r) (l - r) = r)

/-! ## binary64 (spec/00_scope.md R9) -/

/-- The rounding that every operation and every literal goes through is to the nearest binary64
magnitude, ties to the even pattern, and overflows exactly from halfway above the largest finite value
on; a literal is the value nearest to it and `f64` of a 32-bit number is exact (R9, R104, D5).  That
the operations are rounded once is `FiniteArithmeticIsExactThenRoundedOnce`. -/
def Obligations.RoundingIsToNearestEven : Prop :=
  (∀ num den : Nat, 0 < den →
    let r := F64.roundMag num den
    (r < F64.infMag →
      ∀ m : Nat, m < F64.infMag →
        let err := fun k : Nat => ((num : Int) - (F64.ofMag false k).units * den).natAbs
        err r ≤ err m ∧ (err r = err m → m ≠ r → r % 2 = 0)) ∧
    (r = F64.infMag ↔ (2 ^ 54 - 1) * 2 ^ 2045 * den ≤ 2 * num)) ∧
  (∀ n d : Nat, 0 < d →
    F64.RoundsTo ((n : ℝ) / d) (F64.lit n d) ∧ (F64.lit n d).bits.getLsbD 63 = false) ∧
  (∀ n : Nat, n < 2 ^ 32 →
    (F64.ofNat n).exponentField ≠ 2047 ∧ (F64.ofNat n).value = n)

/-- Of finite operands the sum, the difference, the product and the quotient are the exact real result
rounded once; an exact zero sum or difference is `+0.0` but where both addends are negative zeros; and
a product or quotient has the sign of its operands' signs (R9, D5).  Which zero an exact zero is comes
from IEEE 754, which R9 names. -/
def Obligations.FiniteArithmeticIsExactThenRoundedOnce : Prop :=
  ∀ a b : F64, a.exponentField ≠ 2047 → b.exponentField ≠ 2047 →
    let sa := a.bits.getLsbD 63
    let sb := b.bits.getLsbD 63
    F64.RoundsTo (a.value + b.value) (F64.add a b) ∧
    (a.value + b.value = 0 →
      F64.add a b = if sa && sb then ⟨0x8000000000000000#64⟩ else ⟨0x0000000000000000#64⟩) ∧
    F64.RoundsTo (a.value - b.value) (F64.sub a b) ∧
    (a.value - b.value = 0 →
      F64.sub a b = if sa && !sb then ⟨0x8000000000000000#64⟩ else ⟨0x0000000000000000#64⟩) ∧
    F64.RoundsTo (a.value * b.value) (F64.mul a b) ∧
    (F64.mul a b).bits.getLsbD 63 = (sa != sb) ∧
    (b.value ≠ 0 →
      F64.RoundsTo (a.value / b.value) (F64.div a b) ∧
      (F64.div a b).bits.getLsbD 63 = (sa != sb))

/-- The operations on infinities, NaNs and zero divisors are those of IEEE 754 (R9): a NaN comes out
exactly of a NaN operand, `inf - inf`, `0 * inf`, `0 / 0` and `inf / inf`, and is quiet; otherwise an
infinite operand gives an infinity, a division by infinity a zero and a division by zero an infinity,
with the sign the operands give.  Which sign and payload a NaN has stays free (log entry 4). -/
def Obligations.SpecialValuesFollowIeee754 : Prop :=
  ∀ a b : F64,
    let sa := a.bits.getLsbD 63
    let sb := b.bits.getLsbD 63
    let nan := fun x : F64 => x.exponentField = 2047 ∧ x.fractionField ≠ 0
    let inf := fun x : F64 => x.exponentField = 2047 ∧ x.fractionField = 0
    let zero := fun x : F64 => x.exponentField = 0 ∧ x.fractionField = 0
    let quiet := fun x : F64 => nan x → x.bits.getLsbD 51 = true
    let infinity := fun negative : Bool =>
      (if negative then ⟨0xFFF0000000000000#64⟩ else ⟨0x7FF0000000000000#64⟩ : F64)
    let signedZero := fun negative : Bool =>
      (if negative then ⟨0x8000000000000000#64⟩ else ⟨0x0000000000000000#64⟩ : F64)
    (quiet (F64.add a b) ∧ quiet (F64.sub a b) ∧ quiet (F64.mul a b) ∧ quiet (F64.div a b)) ∧
    (nan (F64.add a b) ↔ nan a ∨ nan b ∨ (inf a ∧ inf b ∧ sa ≠ sb)) ∧
    (nan (F64.sub a b) ↔ nan a ∨ nan b ∨ (inf a ∧ inf b ∧ sa = sb)) ∧
    (nan (F64.mul a b) ↔ nan a ∨ nan b ∨ (inf a ∧ zero b) ∨ (zero a ∧ inf b)) ∧
    (nan (F64.div a b) ↔ nan a ∨ nan b ∨ (inf a ∧ inf b) ∨ (zero a ∧ zero b)) ∧
    (¬ nan (F64.add a b) → (inf a → F64.add a b = a) ∧ (inf b → F64.add a b = b)) ∧
    (¬ nan (F64.sub a b) → (inf a → F64.sub a b = a) ∧ (inf b → F64.sub a b = infinity (!sb))) ∧
    (¬ nan (F64.mul a b) → inf a ∨ inf b → F64.mul a b = infinity (sa != sb)) ∧
    (¬ nan (F64.div a b) →
      (inf a ∨ zero b → F64.div a b = infinity (sa != sb)) ∧
      (inf b → F64.div a b = signedZero (sa != sb)))

/-- The square root of a positive finite value is finite, positive and nearest to the exact root among
all finite magnitudes, all counted in units of `2 ^ -1074`; it is the exact root rounded once; of a
zero it is that zero, of `+infinity` itself, and of a NaN or a negative value other than `-0.0` a
quiet NaN (R9). -/
def Obligations.SquareRootIsTheNearest : Prop :=
  (∀ x : F64, x.isFinite = true → x.sign = false → x.isZero = false →
    let root := Real.sqrt ((x.units : ℝ) * (F64.unitsPerOne : ℝ))
    (F64.sqrt x).isFinite = true ∧ (F64.sqrt x).sign = false ∧
    (∀ m : Nat, m < F64.infMag →
      |((F64.sqrt x).units : ℝ) - root| ≤ |((F64.ofMag false m).units : ℝ) - root|) ∧
    F64.RoundsTo (Real.sqrt x.value) (F64.sqrt x)) ∧
  F64.sqrt ⟨0x0000000000000000#64⟩ = ⟨0x0000000000000000#64⟩ ∧
  F64.sqrt ⟨0x8000000000000000#64⟩ = ⟨0x8000000000000000#64⟩ ∧
  F64.sqrt ⟨0x7FF0000000000000#64⟩ = ⟨0x7FF0000000000000#64⟩ ∧
  (∀ x : F64, (x.exponentField = 2047 ∧ x.fractionField ≠ 0) ∨
      (x.bits.getLsbD 63 = true ∧ x ≠ ⟨0x8000000000000000#64⟩) →
    (F64.sqrt x).exponentField = 2047 ∧ (F64.sqrt x).bits.getLsbD 51 = true)

/-- Every comparison is false on a NaN; of finite operands it is that of the real numbers; of numbers,
`<=` is the negation of `>`, `-infinity` is below and `+infinity` above every other; and `abs` clears
the sign bit (R9).  So an AGC whose gain is a NaN and whose peak is a NaN declares the pilot present
(R215). -/
def Obligations.NanComparesFalse : Prop :=
  (∀ a b : F64, (a.isNaN = true ∨ b.isNaN = true) → F64.lt a b = false ∧ F64.le a b = false) ∧
  (∀ a : F64, a.isNaN = true ↔ a.exponentField = 2047 ∧ a.fractionField ≠ 0) ∧
  (∀ a b : F64, a.exponentField ≠ 2047 → b.exponentField ≠ 2047 →
    (F64.lt a b = true ↔ a.value < b.value) ∧ (F64.le a b = true ↔ a.value ≤ b.value)) ∧
  (∀ a b : F64, a.isNaN = false → b.isNaN = false → F64.le a b = !F64.lt b a) ∧
  (∀ a : F64, a.isNaN = false →
    (F64.lt a ⟨0x7FF0000000000000#64⟩ = true ↔ a ≠ ⟨0x7FF0000000000000#64⟩) ∧
    (F64.lt ⟨0xFFF0000000000000#64⟩ a = true ↔ a ≠ ⟨0xFFF0000000000000#64⟩)) ∧
  (∀ a : F64, (F64.abs a).bits.getLsbD 63 = false ∧
    (F64.abs a).bits.extractLsb' 0 63 = a.bits.extractLsb' 0 63) ∧
  (∀ (D : Derived F64) (g : AgcRegs F64), g.gain.isNaN = true → g.peak.isNaN = true →
    agcUpdate f64 documentConsts D g = ⟨g.gain, g.peak, .present⟩)
end

