-- ==== Sys2Proof/Laws/Constants.lean ====
section
/-! SUPPORT. The patterns of the document's constants (spec/00_scope.md R5) are those of the decimals
they stand for, and the literals of the pseudocode are the constants the arithmetic names. -/

namespace Sys2Proof.Machine

theorem gainTrim_eq : documentConsts.gainTrim = F64.lit 11 10 := by decide +kernel

theorem amScale_eq : documentConsts.amScale = F64.lit 7071 10000 := by decide +kernel

theorem pilotMaxGain_eq : documentConsts.pilotMaxGain = F64.lit 15 1 := by decide +kernel

theorem stableLo_eq : documentConsts.stableLo = F64.lit 95 100 := by decide +kernel

theorem stableHi_eq : documentConsts.stableHi = F64.lit 105 100 := by decide +kernel

theorem agcUpDbps_eq : documentConsts.agcUpDbps = F64.lit 64 1 := by decide +kernel

/-- `0.0 - 12.0`, as R211 writes it. -/
theorem agcDownDbps_eq : documentConsts.agcDownDbps = F64.sub ⟨0#64⟩ (F64.lit 12 1) := by
  decide +kernel

theorem sideScaling_eq : documentConsts.sideScaling = F64.lit 5 1 := by decide +kernel

theorem pllK_eq : documentConsts.pllK = F64.lit 10 1 := by decide +kernel

theorem pilotHz_eq : documentConsts.pilotHz = F64.lit 19000 1 := by decide +kernel

theorem tau50_eq : documentConsts.tau50 = F64.lit 50 1 := by decide +kernel

theorem tau75_eq : documentConsts.tau75 = F64.lit 75 1 := by decide +kernel

theorem deeDiv_eq : documentConsts.deeDiv = F64.lit 5 1 := by decide +kernel

theorem f64_one_eq : f64.one = F64.lit 1 1 := by decide +kernel

theorem f64_zero_eq : f64.zero = F64.lit 0 1 := by decide +kernel

end Sys2Proof.Machine
end

