-- ==== Sys2Proof/Laws/Float.lean ====
section
/-! SUPPORT. Small lemmas of the binary64 operations: a pattern's fields and value in terms of its
magnitude, and what each operation is on finite operands, said once so that no proof unfolds one. -/

namespace Sys2Proof

/-! ## Fields -/

theorem F64.mag_lt (x : F64) : x.mag < 2 ^ 63 := Nat.mod_lt _ (by norm_num)

theorem F64.exponentField_eq (x : F64) : x.exponentField = x.mag / 2 ^ 52 := by
  unfold F64.exponentField F64.mag
  rw [BitVec.extractLsb'_toNat, Nat.shiftRight_eq_div_pow]
  omega

theorem F64.fractionField_eq (x : F64) : x.fractionField = x.mag % 2 ^ 52 := by
  unfold F64.fractionField F64.mag
  rw [BitVec.extractLsb'_toNat, Nat.shiftRight_eq_div_pow]
  omega

theorem F64.isFinite_iff (x : F64) : x.isFinite = true ↔ x.exponentField ≠ 2047 := by
  have h := x.mag_lt
  rw [F64.exponentField_eq]
  unfold F64.isFinite F64.infMag
  simp only [decide_eq_true_eq]
  omega

/-! ## Building a value from a sign and a magnitude -/

theorem F64.mag_ofMag (neg : Bool) {m : Nat} (h : m < 2 ^ 63) : (F64.ofMag neg m).mag = m := by
  cases neg <;> simp only [F64.mag, F64.ofMag, BitVec.toNat_ofNat] <;> simp <;> omega

theorem F64.sign_ofMag (neg : Bool) {m : Nat} (h : m < 2 ^ 63) : (F64.ofMag neg m).sign = neg := by
  simp only [F64.sign, F64.ofMag, BitVec.getLsbD_eq_getElem (by norm_num : 63 < 64)]
  rw [BitVec.getElem_eq_testBit_toNat, BitVec.toNat_ofNat, Nat.testBit_eq_decide_div_mod_eq]
  cases neg <;> simp <;> omega

theorem F64.roundMag_le (num den : Nat) : F64.roundMag num den ≤ F64.infMag := by
  unfold F64.roundMag
  exact Nat.min_le_right _ _

theorem F64.roundMag_lt (num den : Nat) : F64.roundMag num den < 2 ^ 63 :=
  lt_of_le_of_lt (F64.roundMag_le num den) (by decide)

/-- Every pattern is the sign and the magnitude it has. -/
theorem F64.ofMag_sign_mag (x : F64) : F64.ofMag x.sign x.mag = x := by
  obtain ⟨b⟩ := x
  have hs : b.getLsbD 63 = decide (2 ^ 63 ≤ b.toNat) := by
    rw [show b.getLsbD 63 = b.msb from (BitVec.msb_eq_getLsbD_last b).symm, BitVec.msb_eq_decide]
  have hb := b.isLt
  unfold F64.ofMag F64.sign F64.mag
  show F64.mk _ = F64.mk b
  rw [hs]
  congr 1
  apply BitVec.eq_of_toNat_eq
  rw [BitVec.toNat_ofNat]
  by_cases h : 2 ^ 63 ≤ b.toNat
  · rw [decide_eq_true h, if_pos rfl]
    show (b.toNat % 2 ^ 63 + 2 ^ 63) % 2 ^ 64 = b.toNat
    omega
  · rw [decide_eq_false h, if_neg Bool.false_ne_true]
    show (b.toNat % 2 ^ 63 + 0) % 2 ^ 64 = b.toNat
    omega

/-! ## The value -/

/-- The value of a pattern counts its units of `2 ^ -1074`. -/
theorem F64.value_eq (x : F64) : x.value = (x.toInt : ℝ) / 2 ^ 1074 := by
  unfold F64.value F64.toInt F64.units F64.sign
  rw [F64.exponentField_eq, F64.fractionField_eq]
  generalize x.mag / 2 ^ 52 = e
  generalize x.mag % 2 ^ 52 = f
  generalize (2 : ℝ) ^ 1074 = c
  by_cases he : e = 0 <;> cases x.bits.getLsbD 63 <;> simp [he] <;> ring

/-! ## The operations on finite operands -/

theorem F64.not_nan_of_finite {x : F64} (h : x.isFinite = true) : x.isNaN = false := by
  simp only [F64.isFinite, F64.isNaN, decide_eq_true_eq, decide_eq_false_iff_not] at *
  omega

theorem F64.not_inf_of_finite {x : F64} (h : x.isFinite = true) : x.isInf = false := by
  simp only [F64.isFinite, F64.isInf, decide_eq_true_eq, decide_eq_false_iff_not] at *
  omega

theorem F64.addNumbers_finite {a b : F64} (ha : a.isFinite = true) (hb : b.isFinite = true) :
    F64.addNumbers a b =
      if a.toInt + b.toInt = 0 then F64.ofMag (a.sign && b.sign) 0
      else F64.ofInt (a.toInt + b.toInt) := by
  simp [F64.addNumbers, F64.not_inf_of_finite ha, F64.not_inf_of_finite hb]

theorem F64.add_finite {a b : F64} (ha : a.isFinite = true) (hb : b.isFinite = true) :
    F64.add a b = F64.addNumbers a b := by
  unfold F64.add
  simp [F64.not_nan_of_finite ha, F64.not_nan_of_finite hb, F64.not_inf_of_finite ha]

theorem F64.sub_finite {a b : F64} (ha : a.isFinite = true) (hb : b.isFinite = true) :
    F64.sub a b = F64.addNumbers a b.neg := by
  unfold F64.sub
  simp [F64.not_nan_of_finite ha, F64.not_nan_of_finite hb, F64.not_inf_of_finite ha]

theorem F64.mul_finite {a b : F64} (ha : a.isFinite = true) (hb : b.isFinite = true) :
    F64.mul a b =
      F64.ofMag (a.sign != b.sign) (F64.roundMag (a.units * b.units) F64.unitsPerOne) := by
  unfold F64.mul
  simp [F64.not_nan_of_finite ha, F64.not_nan_of_finite hb, F64.not_inf_of_finite ha,
    F64.not_inf_of_finite hb]

theorem F64.div_finite {a b : F64} (ha : a.isFinite = true) (hb : b.isFinite = true)
    (h0 : b.isZero = false) :
    F64.div a b =
      F64.ofMag (a.sign != b.sign) (F64.roundMag (a.units * F64.unitsPerOne) b.units) := by
  unfold F64.div
  simp [F64.not_nan_of_finite ha, F64.not_nan_of_finite hb, F64.not_inf_of_finite ha,
    F64.not_inf_of_finite hb, h0]

/-- A NaN result is a quiet NaN whatever the free value is (log entry 4). -/
theorem F64.nanResult_mag (op : FloatOp) (a b : F64) :
    F64.infMag < (F64.nanResult op a b).mag := by
  have h : ∀ w : BitVec 64, 0x7FF8000000000000 ≤ (w ||| 0x7FF8000000000000#64).toNat % 2 ^ 63 := by
    intro w
    have key : (w ||| 0x7FF8000000000000#64).extractLsb' 51 12 = 0xFFF#12 := by
      apply BitVec.eq_of_getLsbD_eq
      intro i hi
      simp only [BitVec.getLsbD_extractLsb', BitVec.getLsbD_or]
      have : ∀ i : Fin 12, (0x7FF8000000000000#64).getLsbD (51 + i) = (0xFFF#12).getLsbD i := by decide
      rw [this ⟨i, hi⟩]
      have one : ∀ i : Fin 12, (0xFFF#12).getLsbD i = true := by decide
      rw [one ⟨i, hi⟩]
      simp [hi]
    have n := congrArg BitVec.toNat key
    rw [BitVec.extractLsb'_toNat, Nat.shiftRight_eq_div_pow] at n
    rw [show (0xFFF#12).toNat = 4095 from rfl] at n
    omega
  have := h (Config.nanBits op a.bits b.bits)
  unfold F64.nanResult F64.mag F64.infMag
  simp only
  omega

end Sys2Proof
end

