-- ==== Sys2Proof/Laws/Memory.lean ====
section
/-! SUPPORT. The laws of the ring buffers: every memory operation keeps the canonical form, a read
after a write gives the value written, a write leaves every other element alone, and contents that read
the same are the same list (spec/20_memory.md R61, R62). -/

namespace Sys2Proof.Machine

variable {F : Type} (A : Arith F)

/-- An element below every listed index reads as the reset content. -/
theorem Memory.read_below {m : Memory F} {i : Nat} (h : ∀ e ∈ m, i < e.1) :
    Memory.read A m i = A.zero := by
  induction m with
  | nil => rfl
  | cons e rest ih =>
    have hi : i < e.1 := h e (by simp)
    have hrest : Memory.read A rest i = A.zero := ih (fun e' he' => h e' (by simp [he']))
    simp [Memory.read, hrest, Nat.ne_of_gt hi]

variable [DecidableEq F]

theorem Memory.wf_nil (n : Nat) : Memory.wf A n [] = true := rfl

theorem Memory.wf_cons {n a : Nat} {v : F} {rest : Memory F} :
    Memory.wf A n ((a, v) :: rest) = true ↔
      a < n ∧ v ≠ A.zero ∧ (∀ e ∈ rest, a < e.1) ∧ Memory.wf A n rest = true := by
  simp [Memory.wf, and_assoc]

/-- Every index a write lists was listed before or is the one written. -/
theorem Memory.write_indices {m : Memory F} {i : Nat} {v : F} {e : Nat × F}
    (he : e ∈ Memory.write A i v m) : e.1 = i ∨ e ∈ m := by
  induction m with
  | nil =>
    by_cases hv : v = A.zero
    · simp [Memory.write, hv] at he
    · simp [Memory.write, hv] at he
      simp [he]
  | cons p rest ih =>
    obtain ⟨a, u⟩ := p
    simp only [Memory.write] at he
    split at he
    · split at he
      · exact .inr he
      · rcases List.mem_cons.mp he with rfl | h
        · exact .inl rfl
        · exact .inr h
    · split at he
      · split at he
        · exact .inr (List.mem_cons_of_mem _ he)
        · rcases List.mem_cons.mp he with rfl | h
          · exact .inl rfl
          · exact .inr (List.mem_cons_of_mem _ h)
      · rcases List.mem_cons.mp he with rfl | h
        · exact .inr (by simp)
        · rcases ih h with h' | h'
          · exact .inl h'
          · exact .inr (List.mem_cons_of_mem _ h')

/-- A write keeps the canonical form. -/
theorem Memory.wf_write {n i : Nat} (hi : i < n) (v : F) {m : Memory F}
    (h : Memory.wf A n m = true) : Memory.wf A n (Memory.write A i v m) = true := by
  induction m with
  | nil =>
    by_cases hv : v = A.zero
    · simp [Memory.write, hv, Memory.wf]
    · simp [Memory.write, hv, Memory.wf, hi]
  | cons p rest ih =>
    obtain ⟨a, u⟩ := p
    obtain ⟨ha, hu, hrest, hwf⟩ := (Memory.wf_cons A).mp h
    simp only [Memory.write]
    split
    case isTrue hlt =>
      split
      · exact h
      case isFalse hv =>
        refine (Memory.wf_cons A).mpr ⟨hi, hv, fun e he => ?_, h⟩
        rcases List.mem_cons.mp he with rfl | he'
        · exact hlt
        · exact Nat.lt_trans hlt (hrest e he')
    case isFalse hge =>
      split
      case isTrue heq =>
        split
        · exact hwf
        case isFalse hv =>
          exact (Memory.wf_cons A).mpr ⟨hi, hv, fun e he => heq ▸ hrest e he, hwf⟩
      case isFalse hne =>
        refine (Memory.wf_cons A).mpr ⟨ha, hu, fun e he => ?_, ih hwf⟩
        rcases Memory.write_indices A he with h' | h'
        · omega
        · exact hrest e h'

/-- A read after a write to the same element gives the value written. -/
theorem Memory.read_write_same {n i : Nat} (v : F) {m : Memory F} (h : Memory.wf A n m = true) :
    Memory.read A (Memory.write A i v m) i = v := by
  induction m with
  | nil =>
    by_cases hv : v = A.zero
    · simp [Memory.write, hv, Memory.read]
    · simp [Memory.write, hv, Memory.read]
  | cons p rest ih =>
    obtain ⟨a, u⟩ := p
    obtain ⟨_, _, hrest, hwf⟩ := (Memory.wf_cons A).mp h
    simp only [Memory.write]
    split
    case isTrue hlt =>
      split
      case isTrue hv =>
        rw [hv]
        refine Memory.read_below A (fun e he => ?_)
        rcases List.mem_cons.mp he with rfl | he'
        · exact hlt
        · exact Nat.lt_trans hlt (hrest e he')
      · simp [Memory.read]
    case isFalse hge =>
      split
      case isTrue heq =>
        split
        case isTrue hv =>
          rw [hv]
          exact Memory.read_below A (fun e he => heq ▸ hrest e he)
        · simp [Memory.read]
      case isFalse hne =>
        have : a ≠ i := fun h' => hne h'.symm
        simp [Memory.read, this, ih hwf]

/-- A write leaves every other element alone. -/
theorem Memory.read_write_other {i j : Nat} (hij : j ≠ i) (v : F) (m : Memory F) :
    Memory.read A (Memory.write A i v m) j = Memory.read A m j := by
  induction m with
  | nil =>
    by_cases hv : v = A.zero
    · simp [Memory.write, hv]
    · simp [Memory.write, hv, Memory.read, Ne.symm hij]
  | cons p rest ih =>
    obtain ⟨a, u⟩ := p
    simp only [Memory.write]
    split
    · split
      · rfl
      · simp [Memory.read, Ne.symm hij]
    · split
      case isTrue heq =>
        have ha : a ≠ j := fun h' => hij (h'.symm.trans heq.symm)
        split <;> simp [Memory.read, ha, Ne.symm hij]
      · by_cases ha : a = j
        · simp [Memory.read, ha]
        · simp [Memory.read, ha, ih]

/-- Two rings' contents in canonical form that read the same everywhere are the same list. -/
theorem Memory.eq_of_read_eq {n : Nat} {m m' : Memory F} (h : Memory.wf A n m = true)
    (h' : Memory.wf A n m' = true) (hr : ∀ i, Memory.read A m i = Memory.read A m' i) : m = m' := by
  induction m generalizing m' with
  | nil =>
    cases m' with
    | nil => rfl
    | cons p rest =>
      obtain ⟨_, hv, _, _⟩ := (Memory.wf_cons A).mp h'
      have := hr p.1
      simp [Memory.read] at this
      exact absurd this.symm hv
  | cons p rest ih =>
    obtain ⟨a, u⟩ := p
    obtain ⟨_, hu, hrest, hwf⟩ := (Memory.wf_cons A).mp h
    cases m' with
    | nil =>
      have := hr a
      simp [Memory.read] at this
      exact absurd this hu
    | cons p' rest' =>
      obtain ⟨a', u'⟩ := p'
      obtain ⟨_, hu', hrest', hwf'⟩ := (Memory.wf_cons A).mp h'
      rcases Nat.lt_trichotomy a a' with hlt | heq | hgt
      · have := hr a
        rw [Memory.read_below A (m := (a', u') :: rest') (i := a)
          (fun e he => by
            rcases List.mem_cons.mp he with rfl | he'
            · exact hlt
            · exact Nat.lt_trans hlt (hrest' e he'))] at this
        simp [Memory.read] at this
        exact absurd this hu
      · subst heq
        have huv : u = u' := by simpa [Memory.read] using hr a
        have htail : ∀ i, Memory.read A rest i = Memory.read A rest' i := by
          intro i
          by_cases hi : a = i
          · subst hi
            rw [Memory.read_below A hrest, Memory.read_below A hrest']
          · simpa [Memory.read, hi] using hr i
        rw [huv, ih hwf hwf' htail]
      · have := hr a'
        rw [Memory.read_below A (m := (a, u) :: rest) (i := a')
          (fun e he => by
            rcases List.mem_cons.mp he with rfl | he'
            · exact hgt
            · exact Nat.lt_trans hgt (hrest e he'))] at this
        simp [Memory.read] at this
        exact absurd this.symm hu'

/-! ## The ring primitives -/

/-- `MemWrite` keeps the canonical form of a ring of positive length. -/
theorem memWrite_wf {n : Nat} (hn : 0 < n) {m : Memory F} (i : Int) (v : F)
    (h : Memory.wf A n m = true) : Memory.wf A n (memWrite A n m i v) = true := by
  refine Memory.wf_write A ?_ v h
  have := Int.emod_lt_of_pos i (Int.ofNat_lt.mpr hn)
  have := Int.emod_nonneg i (Int.ofNat_ne_zero.mpr (Nat.ne_of_gt hn))
  omega

/-- What `RingPush` can do, said once (R62): the elements take `MemWrite` at the write index, the index
advances modulo the length. -/
theorem ringPush_spec (n : Nat) (r : Ring F) (v : F) :
    (ringPush A n r v).mem = memWrite A n r.mem r.w v ∧ (ringPush A n r v).w = (r.w + 1) % n :=
  ⟨rfl, rfl⟩

/-- `RingPush` keeps the canonical form and the range of the write index. -/
theorem ringPush_keeps_form {n : Nat} (hn : 0 < n) (r : Ring F) (v : F)
    (h : Memory.wf A n r.mem = true) :
    Memory.wf A n (ringPush A n r v).mem = true ∧ (ringPush A n r v).w < n :=
  ⟨memWrite_wf A hn _ v h, Nat.mod_lt _ hn⟩

/-- The reset ring is in canonical form, whatever its length. -/
theorem Ring.reset_wf (n : Nat) : Memory.wf A n (Ring.reset : Ring F).mem = true := rfl

end Sys2Proof.Machine
end

