-- ==== Sys2Proof/Laws/State.lean ====
section
/-! SUPPORT. One lemma per field per whole-state operation, true by definition, so that no proof unfolds a
record update.  The operations are those of `Machine/Ops.lean`, `Machine/Facade.lean` and
`Machine/Ports.lean`. -/

namespace Sys2Proof.Machine

variable (s : State)

@[simp] theorem State.answer_fmt (k : ResponseKind) (n : BitVec 2) (v0 v1 : Word64) : (s.answer k n v0 v1).fmt = s.fmt := rfl
@[simp] theorem State.answer_fs (k : ResponseKind) (n : BitVec 2) (v0 v1 : Word64) : (s.answer k n v0 v1).fs = s.fs := rfl
@[simp] theorem State.answer_nch (k : ResponseKind) (n : BitVec 2) (v0 v1 : Word64) : (s.answer k n v0 v1).nch = s.nch := rfl
@[simp] theorem State.answer_width (k : ResponseKind) (n : BitVec 2) (v0 v1 : Word64) : (s.answer k n v0 v1).width = s.width := rfl
@[simp] theorem State.answer_lpfen (k : ResponseKind) (n : BitVec 2) (v0 v1 : Word64) : (s.answer k n v0 v1).lpfen = s.lpfen := rfl
@[simp] theorem State.answer_status (k : ResponseKind) (n : BitVec 2) (v0 v1 : Word64) : (s.answer k n v0 v1).status = s.status := rfl
@[simp] theorem State.answer_ss (k : ResponseKind) (n : BitVec 2) (v0 v1 : Word64) : (s.answer k n v0 v1).ss = s.ss := rfl
@[simp] theorem State.answer_derived (k : ResponseKind) (n : BitVec 2) (v0 v1 : Word64) : (s.answer k n v0 v1).derived = s.derived := rfl
@[simp] theorem State.answer_dp (k : ResponseKind) (n : BitVec 2) (v0 v1 : Word64) : (s.answer k n v0 v1).dp = s.dp := rfl
@[simp] theorem State.answer_pending (k : ResponseKind) (n : BitVec 2) (v0 v1 : Word64) : (s.answer k n v0 v1).port.pending = s.port.pending := rfl
@[simp] theorem State.answer_response (k : ResponseKind) (n : BitVec 2) (v0 v1 : Word64) : (s.answer k n v0 v1).port.response = ⟨rspWord k n, v0, v1⟩ := rfl
@[simp] theorem State.answer_output (k : ResponseKind) (n : BitVec 2) (v0 v1 : Word64) : (s.answer k n v0 v1).port.output = s.port.output := rfl

@[simp] theorem State.ack_fmt : (s.ack).fmt = s.fmt := rfl
@[simp] theorem State.ack_fs : (s.ack).fs = s.fs := rfl
@[simp] theorem State.ack_nch : (s.ack).nch = s.nch := rfl
@[simp] theorem State.ack_width : (s.ack).width = s.width := rfl
@[simp] theorem State.ack_lpfen : (s.ack).lpfen = s.lpfen := rfl
@[simp] theorem State.ack_status : (s.ack).status = s.status := rfl
@[simp] theorem State.ack_ss : (s.ack).ss = s.ss := rfl
@[simp] theorem State.ack_derived : (s.ack).derived = s.derived := rfl
@[simp] theorem State.ack_dp : (s.ack).dp = s.dp := rfl
@[simp] theorem State.ack_pending : (s.ack).port.pending = s.port.pending := rfl
@[simp] theorem State.ack_response : (s.ack).port.response = ⟨rspWord .ack 0#2, 0#64, 0#64⟩ := rfl
@[simp] theorem State.ack_output : (s.ack).port.output = s.port.output := rfl

@[simp] theorem State.ackValue_fmt (v : Word64) : (s.ackValue v).fmt = s.fmt := rfl
@[simp] theorem State.ackValue_fs (v : Word64) : (s.ackValue v).fs = s.fs := rfl
@[simp] theorem State.ackValue_nch (v : Word64) : (s.ackValue v).nch = s.nch := rfl
@[simp] theorem State.ackValue_width (v : Word64) : (s.ackValue v).width = s.width := rfl
@[simp] theorem State.ackValue_lpfen (v : Word64) : (s.ackValue v).lpfen = s.lpfen := rfl
@[simp] theorem State.ackValue_status (v : Word64) : (s.ackValue v).status = s.status := rfl
@[simp] theorem State.ackValue_ss (v : Word64) : (s.ackValue v).ss = s.ss := rfl
@[simp] theorem State.ackValue_derived (v : Word64) : (s.ackValue v).derived = s.derived := rfl
@[simp] theorem State.ackValue_dp (v : Word64) : (s.ackValue v).dp = s.dp := rfl
@[simp] theorem State.ackValue_pending (v : Word64) : (s.ackValue v).port.pending = s.port.pending := rfl
@[simp] theorem State.ackValue_response (v : Word64) : (s.ackValue v).port.response = ⟨rspWord .ack 0#2, v, 0#64⟩ := rfl
@[simp] theorem State.ackValue_output (v : Word64) : (s.ackValue v).port.output = s.port.output := rfl

@[simp] theorem State.nak_fmt : (s.nak).fmt = s.fmt := rfl
@[simp] theorem State.nak_fs : (s.nak).fs = s.fs := rfl
@[simp] theorem State.nak_nch : (s.nak).nch = s.nch := rfl
@[simp] theorem State.nak_width : (s.nak).width = s.width := rfl
@[simp] theorem State.nak_lpfen : (s.nak).lpfen = s.lpfen := rfl
@[simp] theorem State.nak_status : (s.nak).status = s.status := rfl
@[simp] theorem State.nak_ss : (s.nak).ss = s.ss := rfl
@[simp] theorem State.nak_derived : (s.nak).derived = s.derived := rfl
@[simp] theorem State.nak_dp : (s.nak).dp = s.dp := rfl
@[simp] theorem State.nak_pending : (s.nak).port.pending = s.port.pending := rfl
@[simp] theorem State.nak_response : (s.nak).port.response = ⟨rspWord .nak 0#2, 0#64, 0#64⟩ := rfl
@[simp] theorem State.nak_output : (s.nak).port.output = s.port.output := rfl

@[simp] theorem State.raise_fmt (c : Status) : (s.raise c).fmt = s.fmt := rfl
@[simp] theorem State.raise_fs (c : Status) : (s.raise c).fs = s.fs := rfl
@[simp] theorem State.raise_nch (c : Status) : (s.raise c).nch = s.nch := rfl
@[simp] theorem State.raise_width (c : Status) : (s.raise c).width = s.width := rfl
@[simp] theorem State.raise_lpfen (c : Status) : (s.raise c).lpfen = s.lpfen := rfl
@[simp] theorem State.raise_status (c : Status) : (s.raise c).status = c := rfl
@[simp] theorem State.raise_ss (c : Status) : (s.raise c).ss = s.ss := rfl
@[simp] theorem State.raise_derived (c : Status) : (s.raise c).derived = s.derived := rfl
@[simp] theorem State.raise_dp (c : Status) : (s.raise c).dp = s.dp := rfl
@[simp] theorem State.raise_pending (c : Status) : (s.raise c).port.pending = s.port.pending := rfl
@[simp] theorem State.raise_response (c : Status) : (s.raise c).port.response = ⟨rspWord .err 0#2, c.code.setWidth 64, 0#64⟩ := rfl
@[simp] theorem State.raise_output (c : Status) : (s.raise c).port.output = s.port.output := rfl

@[simp] theorem State.deliverOne_fmt (y : F64) : (s.deliverOne y).fmt = s.fmt := rfl
@[simp] theorem State.deliverOne_fs (y : F64) : (s.deliverOne y).fs = s.fs := rfl
@[simp] theorem State.deliverOne_nch (y : F64) : (s.deliverOne y).nch = s.nch := rfl
@[simp] theorem State.deliverOne_width (y : F64) : (s.deliverOne y).width = s.width := rfl
@[simp] theorem State.deliverOne_lpfen (y : F64) : (s.deliverOne y).lpfen = s.lpfen := rfl
@[simp] theorem State.deliverOne_status (y : F64) : (s.deliverOne y).status = s.status := rfl
@[simp] theorem State.deliverOne_ss (y : F64) : (s.deliverOne y).ss = s.ss := rfl
@[simp] theorem State.deliverOne_derived (y : F64) : (s.deliverOne y).derived = s.derived := rfl
@[simp] theorem State.deliverOne_dp (y : F64) : (s.deliverOne y).dp = s.dp := rfl
@[simp] theorem State.deliverOne_pending (y : F64) : (s.deliverOne y).port.pending = s.port.pending := rfl
@[simp] theorem State.deliverOne_response (y : F64) : (s.deliverOne y).port.response = ⟨rspWord .ack 1#2, y.bits, 0#64⟩ := rfl
@[simp] theorem State.deliverOne_output (y : F64) : (s.deliverOne y).port.output = s.port.output ++ [y] := rfl

@[simp] theorem State.deliverTwo_fmt (l r : F64) : (s.deliverTwo l r).fmt = s.fmt := rfl
@[simp] theorem State.deliverTwo_fs (l r : F64) : (s.deliverTwo l r).fs = s.fs := rfl
@[simp] theorem State.deliverTwo_nch (l r : F64) : (s.deliverTwo l r).nch = s.nch := rfl
@[simp] theorem State.deliverTwo_width (l r : F64) : (s.deliverTwo l r).width = s.width := rfl
@[simp] theorem State.deliverTwo_lpfen (l r : F64) : (s.deliverTwo l r).lpfen = s.lpfen := rfl
@[simp] theorem State.deliverTwo_status (l r : F64) : (s.deliverTwo l r).status = s.status := rfl
@[simp] theorem State.deliverTwo_ss (l r : F64) : (s.deliverTwo l r).ss = s.ss := rfl
@[simp] theorem State.deliverTwo_derived (l r : F64) : (s.deliverTwo l r).derived = s.derived := rfl
@[simp] theorem State.deliverTwo_dp (l r : F64) : (s.deliverTwo l r).dp = s.dp := rfl
@[simp] theorem State.deliverTwo_pending (l r : F64) : (s.deliverTwo l r).port.pending = s.port.pending := rfl
@[simp] theorem State.deliverTwo_response (l r : F64) : (s.deliverTwo l r).port.response = ⟨rspWord .ack 2#2, l.bits, r.bits⟩ := rfl
@[simp] theorem State.deliverTwo_output (l r : F64) : (s.deliverTwo l r).port.output = s.port.output ++ [l, r] := rfl

@[simp] theorem State.taken_fmt (rest : List PortEvent) : (s.taken rest).fmt = s.fmt := rfl
@[simp] theorem State.taken_fs (rest : List PortEvent) : (s.taken rest).fs = s.fs := rfl
@[simp] theorem State.taken_nch (rest : List PortEvent) : (s.taken rest).nch = s.nch := rfl
@[simp] theorem State.taken_width (rest : List PortEvent) : (s.taken rest).width = s.width := rfl
@[simp] theorem State.taken_lpfen (rest : List PortEvent) : (s.taken rest).lpfen = s.lpfen := rfl
@[simp] theorem State.taken_status (rest : List PortEvent) : (s.taken rest).status = s.status := rfl
@[simp] theorem State.taken_ss (rest : List PortEvent) : (s.taken rest).ss = s.ss := rfl
@[simp] theorem State.taken_derived (rest : List PortEvent) : (s.taken rest).derived = s.derived := rfl
@[simp] theorem State.taken_dp (rest : List PortEvent) : (s.taken rest).dp = s.dp := rfl
@[simp] theorem State.taken_pending (rest : List PortEvent) : (s.taken rest).port.pending = rest := rfl
@[simp] theorem State.taken_response (rest : List PortEvent) : (s.taken rest).port.response = s.port.response := rfl
@[simp] theorem State.taken_output (rest : List PortEvent) : (s.taken rest).port.output = s.port.output := rfl

@[simp] theorem State.present_fmt (c : Command) : (s.present c).fmt = s.fmt := rfl
@[simp] theorem State.present_fs (c : Command) : (s.present c).fs = s.fs := rfl
@[simp] theorem State.present_nch (c : Command) : (s.present c).nch = s.nch := rfl
@[simp] theorem State.present_width (c : Command) : (s.present c).width = s.width := rfl
@[simp] theorem State.present_lpfen (c : Command) : (s.present c).lpfen = s.lpfen := rfl
@[simp] theorem State.present_status (c : Command) : (s.present c).status = s.status := rfl
@[simp] theorem State.present_ss (c : Command) : (s.present c).ss = s.ss := rfl
@[simp] theorem State.present_derived (c : Command) : (s.present c).derived = s.derived := rfl
@[simp] theorem State.present_dp (c : Command) : (s.present c).dp = s.dp := rfl
@[simp] theorem State.present_pending (c : Command) : (s.present c).port.pending = .command c :: s.port.pending := rfl
@[simp] theorem State.present_response (c : Command) : (s.present c).port.response = s.port.response := rfl
@[simp] theorem State.present_output (c : Command) : (s.present c).port.output = s.port.output := rfl

@[simp] theorem State.resetBlock_fmt : (s.resetBlock).fmt = 0#32 := rfl
@[simp] theorem State.resetBlock_fs : (s.resetBlock).fs = 0#32 := rfl
@[simp] theorem State.resetBlock_nch : (s.resetBlock).nch = 0#32 := rfl
@[simp] theorem State.resetBlock_width : (s.resetBlock).width = ⟨0x3FF0000000000000#64⟩ := rfl
@[simp] theorem State.resetBlock_lpfen : (s.resetBlock).lpfen = true := rfl
@[simp] theorem State.resetBlock_status : (s.resetBlock).status = .ok := rfl
@[simp] theorem State.resetBlock_ss : (s.resetBlock).ss = .closed := rfl
@[simp] theorem State.resetBlock_derived : (s.resetBlock).derived = Derived.reset f64 := rfl
@[simp] theorem State.resetBlock_dp : (s.resetBlock).dp = Datapath.reset f64 documentConsts := rfl
@[simp] theorem State.resetBlock_port : (s.resetBlock).port = s.port := rfl

@[simp] theorem State.opened_fmt (P : Params F64) : (s.opened P).fmt = s.fmt := rfl
@[simp] theorem State.opened_fs (P : Params F64) : (s.opened P).fs = s.fs := rfl
@[simp] theorem State.opened_nch (P : Params F64) : (s.opened P).nch = s.nch := rfl
@[simp] theorem State.opened_width (P : Params F64) : (s.opened P).width = s.width := rfl
@[simp] theorem State.opened_lpfen (P : Params F64) : (s.opened P).lpfen = s.lpfen := rfl
@[simp] theorem State.opened_status (P : Params F64) : (s.opened P).status = .ok := rfl
@[simp] theorem State.opened_ss (P : Params F64) : (s.opened P).ss = .opened := rfl
@[simp] theorem State.opened_derived (P : Params F64) : (s.opened P).derived = latch f64 P s.fmt s.fs s.width s.lpfen := rfl
@[simp] theorem State.opened_dp (P : Params F64) : (s.opened P).dp = Datapath.reset f64 P.consts := rfl
@[simp] theorem State.opened_port (P : Params F64) : (s.opened P).port = s.port := rfl

@[simp] theorem State.discarded_fmt : (s.discarded).fmt = s.fmt := rfl
@[simp] theorem State.discarded_fs : (s.discarded).fs = s.fs := rfl
@[simp] theorem State.discarded_nch : (s.discarded).nch = s.nch := rfl
@[simp] theorem State.discarded_width : (s.discarded).width = s.width := rfl
@[simp] theorem State.discarded_lpfen : (s.discarded).lpfen = s.lpfen := rfl
@[simp] theorem State.discarded_status : (s.discarded).status = s.status := rfl
@[simp] theorem State.discarded_ss : (s.discarded).ss = .closed := rfl
@[simp] theorem State.discarded_derived : (s.discarded).derived = Derived.reset f64 := rfl
@[simp] theorem State.discarded_dp : (s.discarded).dp = Datapath.reset f64 documentConsts := rfl
@[simp] theorem State.discarded_port : (s.discarded).port = s.port := rfl

/-! What a unit operation reads of the configuration. -/

@[simp] theorem State.setup_fs : s.setup.fs = s.fs := rfl
@[simp] theorem State.setup_width : s.setup.width = s.width := rfl
@[simp] theorem State.setup_derived : s.setup.derived = s.derived := rfl

/-! Response words (R97): the kind and the count are read back. -/

@[simp] theorem rspKind_rspWord (k : ResponseKind) (n : BitVec 2) : rspKind (rspWord k n) = k.code := by
  revert n; cases k <;> decide

@[simp] theorem rspCount_rspWord (k : ResponseKind) (n : BitVec 2) : rspCount (rspWord k n) = n := by
  revert n; cases k <;> decide

end Sys2Proof.Machine
end

