-- ==== Sys2Proof/Laws/Ops.lean ====
section
/-! SUPPORT. For each shared operation one lemma that says once everything it can do.  The proofs cite
these instead of unfolding the operation. -/

namespace Sys2Proof.Machine

/-! ## The port -/

/-- Everything one transaction can do. -/
theorem transact_cases {s t : State} (h : transact s = .next t) :
    (s.port.pending = [] ∧ t = s) ∨
    (∃ rest, s.port.pending = .resetPin :: rest ∧ t = (s.taken rest).resetBlock) ∨
    (∃ c rest, s.port.pending = .command c :: rest ∧
      ((∃ i, decode c = .instr i ∧ exec i (s.taken rest) = .next t) ∨
        (∃ e, decode c = .illegal e ∧ t = (s.taken rest).nak))) := by
  unfold transact at h
  split at h
  case h_1 hp => exact .inl ⟨hp, by cases h; rfl⟩
  case h_2 rest hp => exact .inr (.inl ⟨rest, hp, by cases h; rfl⟩)
  case h_3 c rest hp =>
    refine .inr (.inr ⟨c, rest, hp, ?_⟩)
    unfold runCommand at h
    split at h
    case h_1 i hd => exact .inl ⟨i, hd, h⟩
    case h_2 e hd => exact .inr ⟨e, hd, by cases h; rfl⟩

/-! ## The configuration check -/

/-- What an accepted configuration has (R256). -/
theorem judge_ok {K : Consts F64} {s : State} (h : judge K s = .status .ok) :
    s.fs ≠ 0#32 ∧ s.nch = 2#32 ∧
    (isWfmTag (tagModf s.fmt) = true → K.wfmMinRate ≤ s.fs.toNat ∧ tagDef s.fmt ≠ 3#2 ∧
      widthLegal s.width = true) ∧
    hasNoRule (tagModf s.fmt) = false := by
  unfold judge at h
  split at h
  · cases h
  split at h
  · cases h
  split at h
  · cases h
  split at h
  · cases h
  split at h
  · cases h
  split at h
  · cases h
  rename_i h1 h2 h3 h4 h5 h6
  refine ⟨h1, by simpa using h2, fun hw => ?_, by simpa using h4⟩
  simp only [hw, Bool.true_and, decide_eq_true_eq, Bool.not_eq_true'] at h3 h5 h6
  exact ⟨by omega, h5, by simpa using h6⟩

/-- Everything `CHECK` can do. -/
theorem checkWith_cases (P : Params F64) (s : State) :
    (s.ss = .opened ∧ checkWith P s = s.nak) ∨
    (s.ss = .closed ∧ judge P.consts s = .unsupported ∧ checkWith P s = s.nak) ∨
    (s.ss = .closed ∧ judge P.consts s = .status .ok ∧
      checkWith P s = { s with status := .ok }.ackValue 0#64) ∨
    (s.ss = .closed ∧ ∃ c, c ≠ .ok ∧ judge P.consts s = .status c ∧ checkWith P s = s.raise c) := by
  unfold checkWith
  split
  case h_1 hs => exact .inl ⟨hs, rfl⟩
  case h_2 hs =>
    split
    case h_1 hj => exact .inr (.inl ⟨hs, hj, rfl⟩)
    case h_2 hj => exact .inr (.inr (.inl ⟨hs, hj, rfl⟩))
    case h_3 c hne hj => exact .inr (.inr (.inr ⟨hs, c, hne, hj, rfl⟩))

/-- Everything `OPEN` can do. -/
theorem openWith_cases (P : Params F64) (s : State) :
    (s.ss = .opened ∧ openWith P s = s.nak) ∨
    (s.ss = .closed ∧ judge P.consts s = .unsupported ∧ openWith P s = s.nak) ∨
    (s.ss = .closed ∧ judge P.consts s = .status .ok ∧ openWith P s = (s.opened P).ackValue 0#64) ∨
    (s.ss = .closed ∧ ∃ c, c ≠ .ok ∧ judge P.consts s = .status c ∧ openWith P s = s.raise c) := by
  unfold openWith
  split
  case h_1 hs => exact .inl ⟨hs, rfl⟩
  case h_2 hs =>
    split
    case h_1 hj => exact .inr (.inl ⟨hs, hj, rfl⟩)
    case h_2 hj => exact .inr (.inr (.inl ⟨hs, hj, rfl⟩))
    case h_3 c hne hj => exact .inr (.inr (.inr ⟨hs, c, hne, hj, rfl⟩))

/-! ## The CSR file -/

/-- Everything a configuration write can do to the state. -/
theorem writeConfig_cases {s t : State} {n : BitVec 8} {v : Word64}
    (h : s.writeConfig n v = some t) :
    (Csr.ofNumber n = some .fmt ∧ t = { s with fmt := operandWord v }) ∨
    (Csr.ofNumber n = some .fs ∧ t = { s with fs := operandWord v }) ∨
    (Csr.ofNumber n = some .nch ∧ t = { s with nch := operandWord v }) ∨
    (Csr.ofNumber n = some .width ∧ t = { s with width := operandF64 v }) ∨
    (Csr.ofNumber n = some .lpfen ∧ t = { s with lpfen := operandBit v }) := by
  unfold State.writeConfig at h
  split at h <;> simp_all

/-- The numbers R26 to R29 assign are those of the CSR table. -/
theorem csrAssigned_iff (n : BitVec 8) : csrAssigned n = (Csr.ofNumber n).isSome := by
  revert n; decide

/-- A CSR is found by its number. -/
theorem Csr.ofNumber_number (c : Csr) : Csr.ofNumber c.number = some c := by
  cases c <;> decide

/-! ## The units -/

/-- The four branches of the AGC update (R213). -/
theorem agcUpdate_cases {F : Type} (A : Arith F) (K : Consts F) (D : Derived F) (g : AgcRegs F) :
    (A.le K.pilotMaxGain g.gain = true ∧
      agcUpdate A K D g = ⟨K.pilotMaxGain, g.peak, .notPresent⟩) ∨
    (A.le K.pilotMaxGain g.gain = false ∧ A.lt g.peak K.stableLo = true ∧
      agcUpdate A K D g = ⟨A.mul g.gain D.agcinc, g.peak, g.pres⟩) ∨
    (A.le K.pilotMaxGain g.gain = false ∧ A.lt g.peak K.stableLo = false ∧
      A.lt K.stableHi g.peak = true ∧
      agcUpdate A K D g = ⟨A.mul g.gain D.agcdec, A.mul g.peak D.agcdec, g.pres⟩) ∨
    (A.le K.pilotMaxGain g.gain = false ∧ A.lt g.peak K.stableLo = false ∧
      A.lt K.stableHi g.peak = false ∧ agcUpdate A K D g = ⟨g.gain, g.peak, .present⟩) := by
  unfold agcUpdate
  by_cases h1 : A.le K.pilotMaxGain g.gain = true
  · exact .inl ⟨h1, by simp [h1]⟩
  · by_cases h2 : A.lt g.peak K.stableLo = true
    · exact .inr (.inl ⟨by simpa using h1, h2, by simp [h1, h2]⟩)
    · by_cases h3 : A.lt K.stableHi g.peak = true
      · exact .inr (.inr (.inl ⟨by simpa using h1, by simpa using h2, h3, by simp [h1, h2, h3]⟩))
      · exact .inr (.inr (.inr ⟨by simpa using h1, by simpa using h2, by simpa using h3,
          by simp [h1, h2, h3]⟩))

/-- The running maximum writes `PEAK` only. -/
theorem agcPeak_frame {F : Type} (A : Arith F) (g : AgcRegs F) (p : F) :
    (agcPeak A g p).gain = g.gain ∧ (agcPeak A g p).pres = g.pres := by
  unfold agcPeak; split <;> exact ⟨rfl, rfl⟩

/-- Each channel of the de-emphasis has its own state. -/
theorem deeStep_frame {F : Type} (A : Arith F) (P : Params F) (D : Derived F) (r : DeeRegs F) (x : F) :
    (deeStep A P D r .left x).1.r = r.r ∧ (deeStep A P D r .right x).1.l = r.l := ⟨rfl, rfl⟩

section Units
variable {F : Type} [DecidableEq F] (A : Arith F) (P : Params F) (E : Setup F) (d : Datapath F)

/-- What `FMD.STEP` leaves alone. -/
theorem fmdStep_frame (i q : F) :
    (fmdStep A P E d i q).1 = { d with
      fmd := (fmdStep A P E d i q).1.fmd, ph := (fmdStep A P E d i q).1.ph } := rfl

/-- What the final lowpass leaves alone. -/
theorem mpxLowpass_frame (l r : F) :
    (mpxLowpass A P E d l r).1 = { d with
      llh := (mpxLowpass A P E d l r).1.llh, lrh := (mpxLowpass A P E d l r).1.lrh } := by
  unfold mpxLowpass; split <;> rfl

/-- What the stereo steps leave alone. -/
theorem mpxStereo_frame (mono p : F) :
    (mpxStereo A P E d mono p).1 = { d with
      nco := (mpxStereo A P E d mono p).1.nco, ppd := (mpxStereo A P E d mono p).1.ppd,
      llh := (mpxStereo A P E d mono p).1.llh, lrh := (mpxStereo A P E d mono p).1.lrh } := by
  unfold mpxStereo mpxLowpass; split <;> rfl

/-- What `MPX.STEP` leaves alone, and what it does in every frame. -/
theorem mpxStep_frame (x : F) :
    (mpxStep A P E d x).1 = { d with
      agc := (agcStep A P.consts E.derived d.agc
        (firGet A P.mpxL P.hPilot.toList (firPush A P.mpxL d.pbh x))).1
      nco := (mpxStep A P E d x).1.nco
      ppd := (mpxStep A P E d x).1.ppd
      dl := ringPush A P.mpxL d.dl x
      pbh := ringPush A P.mpxL d.pbh x
      sbh := ringPush A P.mpxL d.sbh x
      llh := (mpxStep A P E d x).1.llh
      lrh := (mpxStep A P E d x).1.lrh } := by
  simp only [mpxStep]
  split
  · rw [mpxStereo_frame]; rfl
  · rfl

end Units

/-! ## `PUSH` -/

/-- Everything `PUSH` can do when it answers (R258). -/
theorem pushWith_cases {P : Params F64} {i q : F64} {s t : State}
    (h : pushWith P i q s = .next t) :
    (s.ss = .closed ∧ t = s.nak) ∨
    (s.ss = .opened ∧ ModulationType.ofOrdinal s.derived.mod = some .nfm ∧
      t = { s with dp := (fmdStep f64 P s.setup s.dp i q).1 }.deliverOne
        (fmdStep f64 P s.setup s.dp i q).2) ∨
    (s.ss = .opened ∧ ModulationType.ofOrdinal s.derived.mod = some .am ∧
      t = s.deliverOne (amdStep f64 P.consts i q)) ∨
    (s.ss = .opened ∧ (ModulationType.ofOrdinal s.derived.mod = some .lsb ∨
        ModulationType.ofOrdinal s.derived.mod = some .usb ∨
        ModulationType.ofOrdinal s.derived.mod = some .cw) ∧ t = s.deliverOne i) ∨
    (s.ss = .opened ∧ ModulationType.ofOrdinal s.derived.mod = some .wfm ∧
      t = { s with dp := (wfmFrame f64 P s.setup s.dp i q).1 }.deliverTwo
        (wfmFrame f64 P s.setup s.dp i q).2.1 (wfmFrame f64 P s.setup s.dp i q).2.2) := by
  unfold pushWith at h
  split at h
  case h_1 hs => exact .inl ⟨hs, by cases h; rfl⟩
  case h_2 hs =>
    split at h
    case h_1 hm => exact .inr (.inl ⟨hs, hm, by cases h; rfl⟩)
    case h_2 hm => exact .inr (.inr (.inl ⟨hs, hm, by cases h; rfl⟩))
    case h_3 hm => exact .inr (.inr (.inr (.inl ⟨hs, .inl hm, by cases h; rfl⟩)))
    case h_4 hm => exact .inr (.inr (.inr (.inl ⟨hs, .inr (.inl hm), by cases h; rfl⟩)))
    case h_5 hm => exact .inr (.inr (.inr (.inl ⟨hs, .inr (.inr hm), by cases h; rfl⟩)))
    case h_6 hm => exact .inr (.inr (.inr (.inr ⟨hs, hm, by cases h; rfl⟩)))
    all_goals cases h

/-! ## The other commands -/

/-- Everything `WRCSR` can do. -/
theorem execWrcsr_cases (n : BitVec 8) (v : Word64) (s : State) :
    (execWrcsr n v s = .next s.nak ∧ (s.ss = .opened ∨ s.writeConfig n v = none)) ∨
    (s.ss = .closed ∧ ∃ t, s.writeConfig n v = some t ∧ execWrcsr n v s = .next t.ack) := by
  unfold execWrcsr
  split
  case h_1 hw => exact .inl ⟨rfl, .inr hw⟩
  case h_2 t hw =>
    split
    case h_1 hs => exact .inl ⟨rfl, .inl hs⟩
    case h_2 hs => exact .inr ⟨hs, t, hw, rfl⟩

/-- Everything `RDCSR` can do. -/
theorem execRdcsr_cases (n : BitVec 8) (s : State) :
    (Csr.ofNumber n = none ∧ execRdcsr n s = .next s.nak) ∨
    (∃ c, Csr.ofNumber n = some c ∧ execRdcsr n s = .next (s.ackValue (s.csrValue c))) := by
  unfold execRdcsr
  split
  case h_1 hn => exact .inl ⟨hn, rfl⟩
  case h_2 c hn => exact .inr ⟨c, hn, rfl⟩

/-- Everything `CLOSE` can do. -/
theorem execClose_cases (s : State) :
    (s.ss = .opened ∧ execClose s = .next s.discarded.ack) ∨
    (s.ss = .closed ∧ execClose s = .next s.ack) := by
  unfold execClose
  split
  case h_1 hs => exact .inl ⟨hs, rfl⟩
  case h_2 hs => exact .inr ⟨hs, rfl⟩

end Sys2Proof.Machine
end

