-- ==== Sys2Proof/Laws/PerInstr.lean ====
section
/-! SUPPORT. Families of facts about every instruction as syntax, one lemma per constructor. -/

namespace Sys2Proof.Laws.EncodedRow

/-- The encoded command word selects the opcode-table row of the instruction's own mnemonic
(spec/30_encoding.md R98). -/
def Statement (i : Instr) : Prop :=
  ∃ r ∈ opcodeTable, r.mnemonic = i.mnemonic ∧ r.selects (encode i).cmd = true

theorem nop : Statement .nop := ⟨⟨"NOP", 0x00000000#32, 0xFFFFFFFF#32⟩, by decide, rfl, rfl⟩

theorem rst : Statement .rst := ⟨⟨"RST", 0x10000000#32, 0xFFFFFFFF#32⟩, by decide, rfl, rfl⟩

theorem wrcsr (csrn : BitVec 8) (value : Word64) : Statement (.wrcsr csrn value) :=
  ⟨⟨"WRCSR", 0x20000000#32, 0xF00FFFFF#32⟩, by decide, rfl, by
    simp only [encode]; revert csrn; decide⟩

theorem rdcsr (csrn : BitVec 8) : Statement (.rdcsr csrn) :=
  ⟨⟨"RDCSR", 0x30000000#32, 0xF00FFFFF#32⟩, by decide, rfl, by
    simp only [encode]; revert csrn; decide⟩

theorem check : Statement .check := ⟨⟨"CHECK", 0x40000000#32, 0xFFFFFFFF#32⟩, by decide, rfl, rfl⟩

theorem openStream : Statement .openStream :=
  ⟨⟨"OPEN", 0x50000000#32, 0xFFFFFFFF#32⟩, by decide, rfl, rfl⟩

theorem push (i q : F64) : Statement (.push i q) :=
  ⟨⟨"PUSH", 0x60000000#32, 0xFFFFFFFF#32⟩, by decide, rfl, by simp only [encode]; decide⟩

theorem closeStream : Statement .closeStream :=
  ⟨⟨"CLOSE", 0x70000000#32, 0xFFFFFFFF#32⟩, by decide, rfl, rfl⟩

end Sys2Proof.Laws.EncodedRow
end

