-- ==== Sys2Proof/Laws/Responses.lean ====
section
/-! SUPPORT. How each ending of a command reads on the response ports (spec/30_encoding.md R97): the
assembled response words as numbers, and the endings in terms of `State.responding` and
`State.delivering`. -/

namespace Sys2Proof.Machine

theorem rspWord_ack : rspWord .ack 0#2 = 0x00000000#32 := by decide

theorem rspWord_ack_one : rspWord .ack 1#2 = 0x00000004#32 := by decide

theorem rspWord_ack_two : rspWord .ack 2#2 = 0x00000008#32 := by decide

theorem rspWord_err : rspWord .err 0#2 = 0x00000001#32 := by decide

theorem rspWord_nak : rspWord .nak 0#2 = 0x00000002#32 := by decide

theorem ack_eq (s : State) : s.ack = s.responding 0x00000000#32 0#64 0#64 := by
  simp only [State.ack, State.answer, State.responding, rspWord_ack]

theorem ackValue_eq (s : State) (v : Word64) :
    s.ackValue v = s.responding 0x00000000#32 v 0#64 := by
  simp only [State.ackValue, State.answer, State.responding, rspWord_ack]

theorem nak_eq (s : State) : s.nak = s.responding 0x00000002#32 0#64 0#64 := by
  simp only [State.nak, State.answer, State.responding, rspWord_nak]

theorem raise_eq (s : State) (c : Status) :
    s.raise c = State.responding { s with status := c } 0x00000001#32 (c.code.setWidth 64) 0#64 := by
  simp only [State.raise, State.answer, State.responding, rspWord_err]

theorem deliverOne_eq (s : State) (y : F64) :
    s.deliverOne y = s.delivering 0x00000004#32 y.bits 0#64 [y] := by
  simp only [State.deliverOne, State.answer, State.delivering, rspWord_ack_one]

theorem deliverTwo_eq (s : State) (l r : F64) :
    s.deliverTwo l r = s.delivering 0x00000008#32 l.bits r.bits [l, r] := by
  simp only [State.deliverTwo, State.answer, State.delivering, rspWord_ack_two]

end Sys2Proof.Machine
end

