-- ==== Sys2Proof/Machine/Assembler.lean ====
section
/-! DEFINITION. The assembler text of spec/30_encoding.md R104 and R105: one command or pseudo-command a
line, lower-case mnemonics, operands separated by commas, `#` starting a comment.  What the spec does
not say of the text (blank lines, spaces, exponents, whether `1` is an integer for `WIDTH`) is the
model's choice (log entry 18).  The block never sees text. -/

namespace Sys2Proof.Machine

/-! ## Names -/

/-- The name of a CSR (R26 to R29). -/
def csrName : Csr → String
  | .fmt => "FMT"
  | .fs => "FS"
  | .nch => "NCH"
  | .width => "WIDTH"
  | .lpfen => "LPFEN"
  | .status => "STATUS"
  | .ss => "SS"
  | .mod => "MOD"
  | .de => "DE"
  | .nout => "NOUT"
  | .lpfon => "LPFON"
  | .difflen => "DIFFLEN"
  | .fmgain => "FMGAIN"
  | .agcinc => "AGCINC"
  | .agcdec => "AGCDEC"
  | .sgain => "SGAIN"
  | .dep1 => "DEP1"
  | .dez1 => "DEZ1"
  | .pres => "PRES"
  | .gain => "GAIN"
  | .peak => "PEAK"
  | .theta => "THETA"
  | .ftrack => "FTRACK"
  | .fcenter => "FCENTER"
  | .cosc => "COSC"
  | .sinc => "SINC"
  | .phase => "PHASE"
  | .z1i => "Z1I"
  | .z1q => "Z1Q"
  | .perr => "PERR"

/-- The modulation with this name (R91). -/
def modulationNamed (name : String) : Option ModulationType :=
  ([("None", .none), ("NFM", .nfm), ("AM", .am), ("LSB", .lsb), ("USB", .usb), ("WFM", .wfm),
    ("WFM_NO_LOWPASS", .wfmNoLowpass), ("DSB", .dsb), ("CW", .cw)] :
      List (String × ModulationType)).lookup name

/-- The de-emphasis type with this name (R92). -/
def deEmphasisNamed (name : String) : Option DeEmphasisType :=
  ([("None", .none), ("50us", .us50), ("75us", .us75)] : List (String × DeEmphasisType)).lookup name

/-! ## Numbers -/

/-- The value of a digit in a base of at most 16. -/
def digitValue (base : Nat) (c : Char) : Option Nat :=
  let n := c.toNat
  let v := if 48 ≤ n ∧ n ≤ 57 then n - 48
    else if 97 ≤ n ∧ n ≤ 102 then n - 87
    else if 65 ≤ n ∧ n ≤ 70 then n - 55 else 16
  if v < base then some v else none

/-- Digits, most significant first, after a value already read. -/
def digitsFrom (base : Nat) : Nat → List Char → Option Nat
  | acc, [] => some acc
  | acc, c :: cs =>
    match digitValue base c with
    | some d => digitsFrom base (base * acc + d) cs
    | none => none

/-- One digit or more. -/
def digits (base : Nat) (cs : List Char) : Option Nat :=
  if cs = [] then none else digitsFrom base 0 cs

/-- An integer, decimal or `0x` hexadecimal. -/
def integerLiteral (cs : List Char) : Option Nat :=
  match cs with
  | '0' :: 'x' :: hex => digits 16 hex
  | _ => digits 10 cs

/-- The exponent of a decimal literal: a sign and a magnitude. -/
def exponentLiteral (cs : List Char) : Option (Bool × Nat) :=
  match cs with
  | '-' :: ds => (digits 10 ds).map (fun n => (true, n))
  | '+' :: ds => (digits 10 ds).map (fun n => (false, n))
  | ds => (digits 10 ds).map (fun n => (false, n))

/-- `digits / 10 ^ places` times a power of ten. -/
def scaled (negative : Bool) (value places : Nat) (exponent : Bool × Nat) : FloatOperand :=
  if exponent.1 then .decimal negative value (places + exponent.2)
  else .decimal negative (value * 10 ^ exponent.2) places

/-- A decimal floating literal without its sign. -/
def unsignedDecimal (negative : Bool) (cs : List Char) : Option FloatOperand :=
  let mantissa := cs.takeWhile (fun c => c ≠ 'e' && c ≠ 'E')
  let whole := mantissa.takeWhile (fun c => c ≠ '.')
  let fraction := (mantissa.drop whole.length).drop 1
  let exponent := if cs.length = mantissa.length then some (false, 0)
    else exponentLiteral (cs.drop (mantissa.length + 1))
  if whole = [] then none
  else
    match digits 10 (whole ++ fraction), exponent with
    | some v, some e => some (scaled negative v fraction.length e)
    | _, _ => none

/-- A floating operand: a decimal literal, or a `0x` bit pattern. -/
def floatLiteral (cs : List Char) : Option FloatOperand :=
  match cs with
  | '0' :: 'x' :: hex => (digits 16 hex).map (fun n => .pattern (BitVec.ofNat 64 n))
  | '-' :: rest => unsignedDecimal true rest
  | _ => unsignedDecimal false cs

/-- A CSR by name or number. -/
def csrLiteral (cs : List Char) : Option CsrOperand :=
  match Csr.all.find? (fun c => csrName c = String.ofList cs) with
  | some c => some (.name c)
  | none => (integerLiteral cs).map (fun n => .number (BitVec.ofNat 8 n))

/-- The value operand of `wrcsr`: for `WIDTH` a floating operand, for any other CSR an integer. -/
def valueLiteral (csr : CsrOperand) (cs : List Char) : Option ValueOperand :=
  if csr.value = Csr.width.number then (floatLiteral cs).map .float
  else (integerLiteral cs).map .integer

/-! ## Lines -/

/-- Characters that stand alone between words. -/
def isPunctuation (c : Char) : Bool := c = ',' || c = ':' || c = '(' || c = ')'

/-- The words of a line up to its comment, `word` being read. -/
def words (word : List Char) : List Char → List (List Char)
  | [] => if word = [] then [] else [word]
  | c :: cs =>
    if c = '#' then (if word = [] then [] else [word])
    else if isPunctuation c then
      (if word = [] then [] else [word]) ++ [c] :: words [] cs
    else if c.isWhitespace then (if word = [] then [] else [word]) ++ words [] cs
    else words (word ++ [c]) cs

/-- A line of text. -/
inductive SourceLine where
  | command (l : AsmLine)
  | pseudo (p : PseudoCommand)
deriving DecidableEq, Repr

/-- `(I, Q)` pairs to the end of the line. -/
def pairLiterals : List (List Char) → Option (List (F64 × F64))
  | [] => some []
  | ['('] :: i :: [','] :: q :: [')'] :: rest =>
    match floatLiteral i, floatLiteral q, pairLiterals rest with
    | some i, some q, some ps => some ((i.value, q.value) :: ps)
    | _, _, _ => none
  | _ => none

/-- `readblock <p>: ...`: exactly `p` pairs. -/
def readblockLine (count : List Char) (rest : List (List Char)) : Option SourceLine :=
  match digits 10 count, pairLiterals rest with
  | some n, some ps => if ps.length = n then some (.pseudo (.readblock ps)) else none
  | _, _ => none

/-- `config <tag>, <fs>, <nch>, <width>, <lpfen>`. -/
def configLine (tag fs nch width lpfen : List Char) : Option SourceLine :=
  match integerLiteral tag, integerLiteral fs, integerLiteral nch, floatLiteral width,
      integerLiteral lpfen with
  | some t, some f, some n, some w, some l =>
    some (.pseudo (.config (BitVec.ofNat 32 t) (BitVec.ofNat 32 f) (BitVec.ofNat 32 n) w.value
      (decide (l % 2 = 1))))
  | _, _, _, _, _ => none

/-- The line these words are; `none` where they are no command. -/
def parseWords (ws : List (List Char)) : Option SourceLine :=
  match ws with
  | [] => none
  | mnemonic :: operands =>
    match String.ofList mnemonic, operands with
    | "nop", [] => some (.command .nop)
    | "rst", [] => some (.command .rst)
    | "wrcsr", [c, [','], v] =>
      match csrLiteral c with
      | some c => (valueLiteral c v).map (fun v => .command (.wrcsr c v))
      | none => none
    | "rdcsr", [c] => (csrLiteral c).map (fun c => .command (.rdcsr c))
    | "check", [] => some (.command .check)
    | "open", [] => some (.command .openStream)
    | "push", [i, [','], q] =>
      match floatLiteral i, floatLiteral q with
      | some i, some q => some (.command (.push i q))
      | _, _ => none
    | "close", [] => some (.command .closeStream)
    | "config", [tag, [','], fs, [','], nch, [','], width, [','], lpfen] =>
      configLine tag fs nch width lpfen
    | "setmod", [m, [','], d] =>
      match modulationNamed (String.ofList m), deEmphasisNamed (String.ofList d) with
      | some m, some d => some (.pseudo (.setmod m d))
      | _, _ => none
    | "rdstatus", [] => some (.pseudo .rdstatus)
    | "readblock", count :: [':'] :: rest => readblockLine count rest
    | _, _ => none

/-- The line a text is. -/
def parseLine (text : String) : Option SourceLine := parseWords (words [] text.toList)

/-- The commands a line stands for, as the host presents them (R104, R105). -/
def SourceLine.commands : SourceLine → List Command
  | .command l => [l.assemble]
  | .pseudo p => p.expand.map encode

end Sys2Proof.Machine
end

