-- ==== Sys2Proof/Tests/Slice0.lean ====
section
/-! SUPPORT. Tests: the encodings and worked values of spec/95_test_vectors.md, one step each, and for
every statement with hypotheses a witness that meets them all. -/

namespace Sys2Proof.Tests

open Sys2Proof.Machine

/-! ## Helpers -/

def zeroF : F64 := ⟨0x0000000000000000#64⟩
def oneF : F64 := ⟨0x3FF0000000000000#64⟩
def nanF : F64 := ⟨0x7FF8000000000000#64⟩

/-- A closed block with these configuration CSRs. -/
def configured (fmt fs nch : Word32) (width : F64) : State :=
  { State.reset with fmt := fmt, fs := fs, nch := nch, width := width }

/-- An open stream right after `OPEN`, with gains that no test reads. -/
def streaming (fmt fs : Word32) (mod : BitVec 4) (nout : BitVec 2) (difflen : BitVec 5) : State :=
  { State.reset with
    fmt := fmt
    fs := fs
    nch := 2#32
    ss := .opened
    derived := { State.reset.derived with mod := mod, nout := nout, difflen := difflen } }

def amStream : State := streaming 0x200#32 48000#32 2#4 1#2 9#5
def nfmStream : State := streaming 0x100#32 248000#32 1#4 1#2 19#5
def wfmStream : State := streaming 0x500#32 116000#32 5#4 2#2 9#5

/-- A WFM stream whose AGC gain has reached the clamp. -/
def clampedStream : State :=
  { wfmStream with dp := { wfmStream.dp with agc := ⟨⟨0x402E000000000000#64⟩, zeroF, .unknown⟩ } }

/-- AGC registers that take branch 4 whatever the frame brings: the comparisons are false on a NaN. -/
def presentAgc : AgcRegs F64 := ⟨oneF, nanF, .unknown⟩

def presentStream : State :=
  { wfmStream with dp := { wfmStream.dp with agc := presentAgc } }

/-- This command is presented next. -/
def presenting (s : State) (w : Word32) : State := s.present ⟨w, 0#64, 0#64⟩

/-- What a step says on the response ports. -/
def answered : Host.Outcome State Fault Refusal → Option Response
  | .next t => some t.port.response
  | .fault _ => none
  | .refused _ => none

/-- A field of the next state. -/
def after {α : Type} (f : State → α) : Host.Outcome State Fault Refusal → Option α
  | .next t => some (f t)
  | .fault _ => none
  | .refused _ => none

/-! ## `WellFormed` -/

theorem test_ill_formed_wrcsr : (Instr.wrcsr 0x05#8 0#64).wellFormed = false := by decide
theorem test_ill_formed_rdcsr : (Instr.rdcsr 0x2C#8).wellFormed = false := by decide
theorem test_well_formed_rdcsr : (Instr.rdcsr 0x2B#8).wellFormed = true := by decide

/-! ## Decoding: the words of 2.1, written out -/

theorem test_decode_nop : decode ⟨0x00000000#32, 0#64, 0#64⟩ = .instr .nop := by decide
theorem test_decode_rst : decode ⟨0x10000000#32, 0#64, 0#64⟩ = .instr .rst := by decide
theorem test_decode_wrcsr :
    decode ⟨0x20300000#32, 0x3FE0000000000000#64, 0#64⟩ =
      .instr (.wrcsr 0x03#8 0x3FE0000000000000#64) := by decide
theorem test_decode_rdcsr : decode ⟨0x32B00000#32, 0#64, 0#64⟩ = .instr (.rdcsr 0x2B#8) := by decide
theorem test_decode_check : decode ⟨0x40000000#32, 0#64, 0#64⟩ = .instr .check := by decide
theorem test_decode_open : decode ⟨0x50000000#32, 0#64, 0#64⟩ = .instr .openStream := by decide
theorem test_decode_push :
    decode ⟨0x60000000#32, 0x3FF0000000000000#64, 0xBFF0000000000000#64⟩ =
      .instr (.push ⟨0x3FF0000000000000#64⟩ ⟨0xBFF0000000000000#64⟩) := by decide
theorem test_decode_close : decode ⟨0x70000000#32, 0#64, 0#64⟩ = .instr .closeStream := by decide

/-- The words of 2.1 that the decoder itself refuses. -/
theorem test_decode_illegal :
    decode ⟨0x80000000#32, 0#64, 0#64⟩ = .illegal (.reservedOpcode 8#4) ∧
    decode ⟨0xF0000000#32, 0#64, 0#64⟩ = .illegal (.reservedOpcode 15#4) ∧
    decode ⟨0x00000001#32, 0#64, 0#64⟩ = .illegal .reservedBitsSet ∧
    decode ⟨0x60100000#32, 0#64, 0#64⟩ = .illegal (.csrnNotTaken 1#8) := by decide

/-- The illegal words of 2.1, all answered `NAK`. -/
theorem test_illegal_words_answer_nak :
    answered (step (presenting State.reset 0x80000000#32)) = some ⟨2#32, 0#64, 0#64⟩ ∧
    answered (step (presenting State.reset 0xF0000000#32)) = some ⟨2#32, 0#64, 0#64⟩ ∧
    answered (step (presenting State.reset 0x00000001#32)) = some ⟨2#32, 0#64, 0#64⟩ ∧
    answered (step (presenting State.reset 0x60100000#32)) = some ⟨2#32, 0#64, 0#64⟩ ∧
    answered (step (presenting State.reset 0x30500000#32)) = some ⟨2#32, 0#64, 0#64⟩ ∧
    answered (step (presenting State.reset 0x32C00000#32)) = some ⟨2#32, 0#64, 0#64⟩ ∧
    answered (step (presenting State.reset 0x21000000#32)) = some ⟨2#32, 0#64, 0#64⟩ ∧
    answered (step (presenting State.reset 0x22100000#32)) = some ⟨2#32, 0#64, 0#64⟩ ∧
    answered (step (presenting State.reset 0x20500000#32)) = some ⟨2#32, 0#64, 0#64⟩ := by
  refine ⟨?_, ?_, ?_, ?_, ?_, ?_, ?_, ?_, ?_⟩ <;> decide

theorem test_table_word :
    decodeTableWord 160 (0x60000000 + 0x3FF0000000000000 * 2 ^ 32 + 0xBFF0000000000000 * 2 ^ 96) =
      some (.push ⟨0x3FF0000000000000#64⟩ ⟨0xBFF0000000000000#64⟩) := by decide

theorem test_csr_numbers_are_distinct : (Csr.all.map Csr.number).Nodup := by decide

/-- `pack(5, 2, 0xABCDE0C5) = 0xABCDE5E5` and back (2.1). -/
theorem test_pack :
    packTag 5#4 2#2 0xABCDE0C5#32 = 0xABCDE5E5#32 ∧
    unpackTag 0xABCDE5E5#32 = (5#4, 2#2, 0xABCDE0C5#32) := by decide

/-- Assembler lines of 2.1, and an expansion of R105. -/
theorem test_assemble_push :
    (parseLine "push 1.0, -1.0").map SourceLine.commands =
      some [⟨0x60000000#32, 0x3FF0000000000000#64, 0xBFF0000000000000#64⟩] := by decide +kernel

theorem test_assemble_wrcsr :
    (parseLine "wrcsr WIDTH, 0.5   # half").map SourceLine.commands =
      some [⟨0x20300000#32, 0x3FE0000000000000#64, 0#64⟩] := by decide +kernel

theorem test_assemble_setmod :
    (parseLine "setmod WFM, 75us").map SourceLine.commands =
      some [⟨0x20000000#32, 0x520#64, 0#64⟩] := by decide +kernel

/-! ## Constants and binary64 -/

/-- `f64(4294967295)` is exact. -/
theorem test_ofNat : F64.ofNat 4294967295 = ⟨0x41EFFFFFFFE00000#64⟩ := by decide +kernel

/-- From 2.6: at sync 4 and 5, and `t = -pi`. -/
theorem test_wrap :
    F64.wrap F64.pi = F64.pi ∧ F64.wrap F64.pi.neg = F64.pi ∧
    F64.wrap (F64.add F64.pi ⟨0x3FE921FB54442D18#64⟩) = ⟨0xC002D97C7F3321D2#64⟩ := by decide +kernel

/-! ## One step of each instruction -/

theorem test_nop : answered (exec .nop amStream) = some ⟨0#32, 0#64, 0#64⟩ := by decide

/-- After `wrcsr FS, 192000` then `rst`, `FS` is 0 (R252). -/
theorem test_rst : after State.fs (exec .rst (configured 0x500#32 192000#32 2#32 oneF)) = some 0#32 := by
  decide

/-- `wrcsr FMT, 0x510` (R253). -/
theorem test_wrcsr_fmt : after State.fmt (exec (.wrcsr 0x00#8 0x510#64) State.reset) = some 0x510#32 := by
  decide

/-- Only bit 0 of a write to `LPFEN` counts (R26). -/
theorem test_wrcsr_lpfen :
    after State.lpfen (exec (.wrcsr 0x04#8 0xFFFFFFFFFFFFFFFE#64) State.reset) = some false := by decide

/-- After reset `rdcsr WIDTH` answers the pattern of 1.0 (R254). -/
theorem test_rdcsr_width :
    answered (exec (.rdcsr 0x03#8) State.reset) = some ⟨0#32, 0x3FF0000000000000#64, 0#64⟩ := by decide

/-- After reset `rdcsr FTRACK` answers 19000.0 (R40). -/
theorem test_rdcsr_ftrack :
    answered (exec (.rdcsr 0x24#8) State.reset) = some ⟨0#32, 0x40D28E0000000000#64, 0#64⟩ := by decide

/-- The check matrix of 2.9 and the examples of R255 and T8. -/
theorem test_check_errors :
    answered (exec .check (configured 0x500#32 0#32 2#32 oneF)) = some ⟨1#32, 1#64, 0#64⟩ ∧
    answered (exec .check (configured 0x500#32 115999#32 2#32 oneF)) = some ⟨1#32, 2#64, 0#64⟩ ∧
    answered (exec .check (configured 0x500#32 100000#32 1#32 oneF)) = some ⟨1#32, 3#64, 0#64⟩ := by
  decide

/-- An unsupported tag and a NaN width answer `NAK`; the boundary rate passes (R256). -/
theorem test_check_verdicts :
    answered (exec .check (configured 0x700#32 48000#32 2#32 oneF)) = some ⟨2#32, 0#64, 0#64⟩ ∧
    answered (exec .check (configured 0x500#32 116000#32 2#32 nanF)) = some ⟨2#32, 0#64, 0#64⟩ ∧
    answered (exec .check (configured 0x500#32 116000#32 2#32 oneF)) = some ⟨0#32, 0#64, 0#64⟩ := by
  decide

/-- `FMGAIN` just above 300000 Hz and at 384000 Hz (2.3). -/
theorem test_open_fmgain :
    after (fun t => t.derived.fmgain) (exec .openStream (configured 0x100#32 300001#32 2#32 oneF)) =
      some ⟨0x3FF1999D71DD03C4#64⟩ ∧
    after (fun t => t.derived.fmgain) (exec .openStream (configured 0x100#32 384000#32 2#32 oneF)) =
      some ⟨0x3FF6872B020C49BB#64⟩ := by decide +kernel

/-- `SGAIN` at width 0.5 (2.8), and the normalised modulation of a no-lowpass tag (R94). -/
theorem test_open_wideband :
    after (fun t => (t.derived.sgain, t.derived.mod, t.derived.lpfon))
      (exec .openStream (configured 0x600#32 250000#32 2#32 ⟨0x3FE0000000000000#64⟩)) =
      some (⟨0x3FE5555555555555#64⟩, 5#4, false) := by decide +kernel

/-- The `AM` vector (3, 4) of 2.4. -/
theorem test_push_am :
    answered (exec (.push ⟨0x4008000000000000#64⟩ ⟨0x4010000000000000#64⟩) amStream) =
      some ⟨4#32, 0x400C48B439581062#64, 0#64⟩ := by decide +kernel

/-- A closed block refuses a `PUSH` (R258). -/
theorem test_push_closed : answered (exec (.push oneF oneF) State.reset) = some ⟨2#32, 0#64, 0#64⟩ := by
  decide

/-- `CLOSE` keeps the configuration and clears the derived configuration (R259). -/
theorem test_close :
    after (fun t => (t.ss, t.fs, t.derived.difflen)) (exec .closeStream nfmStream) =
      some (.closed, 248000#32, 0#5) := by decide

/-! ## Unit operations -/

/-- The second-order vector of 2.2: the state after the first and the second sample. -/
theorem test_biquad :
    (biqStep f64 ⟨oneF, F64.lit 2 1, oneF, (F64.lit 1 2).neg, F64.lit 1 4⟩ ⟨zeroF, zeroF⟩ oneF) =
      (⟨F64.lit 5 2, F64.lit 3 4⟩, oneF) ∧
    (biqStep f64 ⟨oneF, F64.lit 2 1, oneF, (F64.lit 1 2).neg, F64.lit 1 4⟩
      ⟨F64.lit 5 2, F64.lit 3 4⟩ zeroF) = (⟨F64.lit 2 1, (F64.lit 5 8).neg⟩, F64.lit 5 2) := by
  decide +kernel

/-- `MemRead` of a ring of length 3 at -1, 3 and -4 (2.2). -/
theorem test_mem_read :
    let ring : Memory F64 := [(0, F64.pi), (1, oneF), (2, nanF)]
    memRead f64 3 ring (-1) = nanF ∧ memRead f64 3 ring 3 = F64.pi ∧ memRead f64 3 ring (-4) = nanF := by
  decide

/-- Two rows of 2.7: branch 4 by the magnitude of a negative sample, and branch 1. -/
theorem test_agc :
    (agcStep f64 documentConsts State.reset.derived ⟨F64.lit 2 1, F64.lit 1 2, .unknown⟩
      (F64.lit 49 100).neg).1 = ⟨F64.lit 2 1, F64.lit 98 100, .present⟩ ∧
    (agcStep f64 documentConsts State.reset.derived ⟨F64.lit 152 10, F64.lit 3 10, .unknown⟩
      (F64.lit 1 100)).1 = ⟨F64.lit 15 1, F64.lit 3 10, .notPresent⟩ := by decide +kernel

/-! ## Witnesses: the hypotheses of each statement, met together -/

theorem reset_inv : State.reset.Inv where
  closed := fun _ => ⟨rfl, rfl⟩
  configured := fun h => by cases h
  rings := fun h => by cases h
  fcenter := rfl

theorem empty_ring_legal {n : Nat} (h : 0 < n) : Ring.legal n (Machine.Ring.reset : Machine.Ring F64) :=
  ⟨rfl, h⟩

theorem nfmStream_inv : nfmStream.Inv where
  closed := fun h => by cases h
  configured := fun _ => by constructor <;> decide
  rings := fun _ => ⟨by decide, empty_ring_legal (by simp [Params.mpxL]), rfl, rfl,
    empty_ring_legal (by simp [Params.lpfM]), empty_ring_legal (by simp [Params.lpfM])⟩
  fcenter := rfl

theorem wfmStream_inv : wfmStream.Inv where
  closed := fun h => by cases h
  configured := fun _ => by constructor <;> decide
  rings := fun _ => ⟨by decide, empty_ring_legal (by simp [Params.mpxL]), rfl, rfl,
    empty_ring_legal (by simp [Params.lpfM]), empty_ring_legal (by simp [Params.lpfM])⟩
  fcenter := rfl

theorem test_witness_DecoderAgreesWithOpcodeTable :
    (∃ c i, decode c = .instr i) ∧
      opcodeTable.filter (fun r => r.selects 0x80000000#32) = [] :=
  ⟨⟨⟨0x30000000#32, 0#64, 0#64⟩, .rdcsr 0x00#8, by decide⟩, by decide⟩

theorem test_witness_StepRunsTheDecodedCommand :
    ∃ s c rest i, State.port s = ⟨.command c :: rest, s.port.response, s.port.output⟩ ∧
      s.port.pending = .command c :: rest ∧ decode c = .instr i :=
  ⟨presenting wfmStream 0x70000000#32, ⟨0x70000000#32, 0#64, 0#64⟩, [], .closeStream, rfl, rfl, by decide⟩

/-- One word for each reason of R101, at the boundary. -/
theorem test_witness_StepAnswersNakToIllegalWord :
    (8 ≤ ((0x80000000#32).extractLsb' 28 4).toNat) ∧ ((0x00080000#32).extractLsb' 0 20 ≠ 0#20) ∧
    ((0x40100000#32).extractLsb' 28 4 ≠ 2#4 ∧ (0x40100000#32).extractLsb' 28 4 ≠ 3#4 ∧
      (0x40100000#32).extractLsb' 20 8 ≠ 0#8) ∧
    ((0x20500000#32).extractLsb' 28 4 = 2#4 ∧ csrAssigned ((0x20500000#32).extractLsb' 20 8) = false) ∧
    ((0x3FF00000#32).extractLsb' 28 4 = 3#4 ∧ csrAssigned ((0x3FF00000#32).extractLsb' 20 8) = false) ∧
    (presenting wfmStream 0x3FF00000#32).port.pending = [.command ⟨0x3FF00000#32, 0#64, 0#64⟩] := by
  decide

theorem test_witness_StepWithoutACommand :
    wfmStream.port.pending = [] ∧
    ({ wfmStream with port := { wfmStream.port with pending := [.resetPin] } } : State).port.pending =
      [.resetPin] := by decide

theorem test_witness_StepKeepsTheInvariant :
    State.reset.Inv ∧ wfmStream.Inv ∧ (presenting wfmStream 0x60000000#32).Inv ∧
      ∃ t, step (presenting wfmStream 0x60000000#32) = .next t :=
  ⟨reset_inv, wfmStream_inv, ⟨wfmStream_inv.1, fun h => by
    obtain ⟨a, b, c, d, e, f, g, h, i, j, k⟩ := wfmStream_inv.2 h
    exact ⟨a, b, c, d, e, f, g, h, i, j, k⟩, fun h => by
    obtain ⟨a, b, c, d, e, f⟩ := wfmStream_inv.3 h
    exact ⟨a, b, c, d, e, f⟩, rfl⟩, _, rfl⟩

/-- `THETA` at the closed end of its interval, and a NaN. -/
theorem test_witness_StepKeepsThetaInRange :
    ({ presenting presentStream 0x60000000#32 with
        dp := { presentStream.dp with nco := { presentStream.dp.nco with theta := F64.pi } } } :
          State).thetaInRange ∧
    (∃ t, step { presenting presentStream 0x60000000#32 with
        dp := { presentStream.dp with nco := { presentStream.dp.nco with theta := F64.pi } } } = .next t) ∧
    ({ presentStream with
        dp := { presentStream.dp with nco := { presentStream.dp.nco with theta := nanF } } } :
          State).thetaInRange :=
  ⟨.inr (by decide), ⟨_, rfl⟩, .inl (by decide)⟩

theorem test_witness_StepNeverStops : wfmStream.Inv ∧ nfmStream.Inv := ⟨wfmStream_inv, nfmStream_inv⟩

theorem test_witness_WrcsrWritesTheConfiguration :
    State.reset.ss = .closed ∧ 4 < (0x05#8).toNat ∧ wfmStream.ss = .opened := by decide

/-- The unassigned numbers at the edges of the three gaps. -/
theorem test_witness_RdcsrAnswersTheCsr :
    ∀ n ∈ [0x05#8, 0x0F#8, 0x1D#8, 0x1F#8, 0x2C#8, 0xFF#8],
      (0x04 < n.toNat ∧ n.toNat < 0x10) ∨ (0x1C < n.toNat ∧ n.toNat < 0x20) ∨ 0x2B < n.toNat := by decide

theorem test_witness_ConfigurationReadsBack : (configured 0x520#32 0#32 0#32 nanF).ss = .closed := rfl

theorem test_witness_OpenFailsAsCheckDoes :
    ∃ s t : State, s.ss = .closed ∧ exec .check s = .next t ∧ t.port.response.rsp ≠ 0x00000000#32 :=
  ⟨State.reset, _, rfl, rfl, by decide⟩

theorem test_witness_OpenLatchesNarrowband :
    ∀ m ∈ [(0x13F#32, 1#4), (0x200#32, 2#4), (0x330#32, 3#4), (0x400#32, 4#4), (0x800#32, 8#4)],
      let s := configured m.1 1#32 2#32 nanF
      s.ss = .closed ∧ s.fs ≠ 0#32 ∧ s.nch = 2#32 ∧ s.fmt.extractLsb' 8 4 = m.2 ∧
        (m.2 = 1#4 ∨ m.2 = 2#4 ∨ m.2 = 3#4 ∨ m.2 = 4#4 ∨ m.2 = 8#4) := by
  intro m hm
  fin_cases hm <;> decide

theorem test_witness_OpenLatchesWideband :
    ∀ s ∈ [configured 0x500#32 116000#32 2#32 zeroF, configured 0x620#32 250000#32 2#32 oneF],
      s.ss = .closed ∧ 116000 ≤ s.fs.toNat ∧ s.nch = 2#32 ∧
        (s.fmt.extractLsb' 8 4 = 5#4 ∨ s.fmt.extractLsb' 8 4 = 6#4) ∧ s.fmt.extractLsb' 4 2 ≠ 3#2 ∧
        F64.le ⟨0x0000000000000000#64⟩ s.width = true ∧
        F64.le s.width ⟨0x3FF0000000000000#64⟩ = true := by decide +kernel

theorem test_witness_StreamStateDecidesAcceptance :
    (State.reset.Inv ∧ State.reset.ss = .closed ∧ ∃ t, exec .closeStream State.reset = .next t) ∧
    (nfmStream.Inv ∧ nfmStream.ss = .opened ∧ ∃ t, exec (.push oneF oneF) nfmStream = .next t) :=
  ⟨⟨reset_inv, rfl, ⟨_, rfl⟩⟩, ⟨nfmStream_inv, rfl, ⟨_, rfl⟩⟩⟩

theorem test_witness_CloseDiscardsTheStream : nfmStream.ss = .opened ∧ State.reset.ss = .closed := by decide

/-- An open stream and a closed block with the same configuration, then closed and opened again. -/
theorem test_witness_OldStreamCannotReachANewOne :
    ∃ s u t v : State, s.Inv ∧ u.Inv ∧ s.fmt = u.fmt ∧ s.fs = u.fs ∧ s.nch = u.nch ∧
      s.width = u.width ∧ s.lpfen = u.lpfen ∧
      runInstrs [.closeStream, .openStream] s = .next t ∧
      runInstrs [.closeStream, .openStream] u = .next v ∧ t.ss = .opened :=
  ⟨nfmStream, configured 0x100#32 248000#32 2#32 oneF, _, _, nfmStream_inv,
    { closed := fun _ => ⟨rfl, rfl⟩
      configured := fun h => nomatch h
      rings := fun h => nomatch h
      fcenter := rfl },
    rfl, rfl, rfl, rfl, rfl, rfl, rfl, rfl⟩

theorem test_witness_ConfigurationIsFrozenWhileOpen :
    ∃ s t : State, s.ss = .opened ∧ step s = .next t ∧ t.ss = .opened :=
  ⟨presenting nfmStream 0x60000000#32, _, rfl, rfl, rfl⟩

theorem test_witness_NakChangesNoState :
    ∃ t, exec (.push oneF oneF) State.reset = .next t ∧ rspKind t.port.response.rsp = 2#2 :=
  ⟨_, rfl, by decide⟩

/-- Each of the three error conditions. -/
theorem test_witness_ErrorWritesOnlyStatus :
    (∃ t, exec .check State.reset = .next t ∧ rspKind t.port.response.rsp = 1#2) ∧
    (∃ t, exec .openStream (configured 0x600#32 115999#32 2#32 oneF) = .next t ∧
      rspKind t.port.response.rsp = 1#2) ∧
    (∃ t, exec .openStream (configured 0x200#32 48000#32 1#32 oneF) = .next t ∧
      rspKind t.port.response.rsp = 1#2) :=
  ⟨⟨_, rfl, by decide⟩, ⟨_, rfl, by decide⟩, ⟨_, rfl, by decide⟩⟩

theorem test_witness_PushDispatchesByModulation :
    State.reset.ss = .closed ∧ (nfmStream.ss = .opened ∧ nfmStream.derived.mod = 1#4) ∧
    (amStream.ss = .opened ∧ amStream.derived.mod = 2#4) ∧
    (∀ m ∈ [3#4, 4#4, 8#4], (streaming 0#32 1#32 m 1#2 9#5).ss = .opened ∧
      (streaming 0#32 1#32 m 1#2 9#5).derived.mod = m) ∧
    (wfmStream.ss = .opened ∧ wfmStream.derived.mod = 5#4) := by decide

theorem test_witness_AmAnswersTheScaledEnvelope :
    amStream.ss = .opened ∧ amStream.derived.mod = 2#4 := by decide

theorem test_witness_SidebandPassesTheInPhaseSample :
    ∀ m ∈ [3#4, 4#4, 8#4], (streaming 0#32 1#32 m 1#2 9#5).ss = .opened ∧
      ((streaming 0#32 1#32 m 1#2 9#5).derived.mod = 3#4 ∨
        (streaming 0#32 1#32 m 1#2 9#5).derived.mod = 4#4 ∨
        (streaming 0#32 1#32 m 1#2 9#5).derived.mod = 8#4) := by decide

theorem test_witness_NfmAnswersTheDifferentiatedPhase :
    nfmStream.ss = .opened ∧ nfmStream.derived.mod = 1#4 := by decide

theorem test_witness_NarrowbandLeavesTheDecoderAlone :
    (∃ t, exec (.push oneF nanF) nfmStream = .next t ∧ nfmStream.derived.mod ≠ 5#4) ∧
    (∃ t, exec (.push oneF nanF) amStream = .next t ∧ amStream.derived.mod ≠ 5#4 ∧
      amStream.derived.mod ≠ 1#4) :=
  ⟨⟨_, rfl, by decide⟩, ⟨_, rfl, by decide⟩⟩

theorem test_witness_BlockReadCountsItsSamples :
    (wfmStream.Inv ∧ wfmStream.ss = .opened ∧ wfmStream.derived.mod = 5#4) ∧
    (nfmStream.Inv ∧ nfmStream.ss = .opened ∧ nfmStream.derived.mod ≠ 5#4) :=
  ⟨⟨wfmStream_inv, rfl, rfl⟩, nfmStream_inv, rfl, by decide⟩

/-- A ring of one element, and one of three whose index is about to wrap. -/
theorem test_witness_RingKeepsTheLastSamples :
    Ring.legal 1 (⟨[(0, oneF)], 0⟩ : Machine.Ring F64) ∧
    Ring.legal 3 (⟨[(0, oneF), (2, nanF)], 2⟩ : Machine.Ring F64) ∧ 1 + 1 < 3 := by decide

theorem test_witness_FirConvolvesItsHistory : 0 < [oneF].length := by decide

theorem test_witness_DifferentiatorConvolvesThePhases :
    nfmStream.setup.derived.difflen = 19#5 ∧ wfmStream.setup.derived.difflen = 9#5 := by decide

theorem test_witness_IdealBiquadMeetsItsDifferenceEquation : 0 < [(1 : ℝ)].length := by simp

/-- An ideal set-up with the short kernel, and a kernel of zeros. -/
theorem test_witness_IdealDifferentiatorRejectsAConstant :
    ∃ (P : Params ℝ) (E : Setup ℝ) (r : Machine.Ring ℝ),
      (E.derived.difflen = 19#5 ∨ E.derived.difflen = 9#5) ∧
      Memory.wf ideal E.derived.difflen.toNat r.mem = true ∧ r.w < E.derived.difflen.toNat ∧
      sumsToZero (kernelOf P E.derived.difflen) :=
  ⟨{ consts := idealConsts
     num := idealNum
     kernel19 := Vector.replicate 19 0
     kernel9 := Vector.replicate 9 0
     dlyD := 0
     hPilot := Vector.replicate 1 1
     hSide := Vector.replicate 1 1
     lpfOrder := 0
     hLpf := Vector.replicate 1 1
     lf1 := ⟨1, 0, 0, 0, 0⟩
     lf2 := ⟨1, 0, 0, 0, 0⟩
     deeB1IsZ1 := true },
    ⟨48000#32, 1, { Derived.reset ideal with difflen := 9#5 }⟩, ⟨[], 8⟩,
    .inr rfl, rfl, by decide, by simp [sumsToZero, kernelOf]⟩

theorem test_witness_DeemphasisIsBypassedWhenOff :
    wfmStream.derived.de = 0#2 ∧ wfmStream.ss = .opened ∧ wfmStream.derived.mod = 5#4 ∧
      ∃ t, exec (.push oneF zeroF) wfmStream = .next t :=
  ⟨rfl, rfl, rfl, _, rfl⟩

theorem test_witness_WrapIsExactAndInRange :
    F64.pi.neg.isFinite = true ∧ (⟨0x7FEFFFFFFFFFFFFF#64⟩ : F64).isFinite = true ∧
    (⟨0x7FF0000000000000#64⟩ : F64).isFinite = false ∧ nanF.isFinite = false := by decide

theorem test_witness_AgcLatchesAtTheClamp :
    [zeroF] ≠ [] ∧ F64.le ⟨0x402E000000000000#64⟩ clampedStream.dp.agc.gain = true := by decide

/-- Peaks at both ends of the stable band, and a frame whose magnitude is exactly 1.05. -/
theorem test_witness_AgcStaysStableWhileTheSignalDoesNotGrow :
    ∀ peak ∈ [(⟨0x3FEE666666666666#64⟩ : F64), ⟨0x3FF0CCCCCCCCCCCD#64⟩],
      let g : AgcRegs F64 := ⟨oneF, peak, .unknown⟩
      let rs := [zeroF, ⟨0x3FF0CCCCCCCCCCCD#64⟩]
      rs ≠ [] ∧ F64.le ⟨0x402E000000000000#64⟩ g.gain = false ∧
      F64.lt g.peak ⟨0x3FEE666666666666#64⟩ = false ∧ F64.lt ⟨0x3FF0CCCCCCCCCCCD#64⟩ g.peak = false ∧
      (∀ r ∈ rs, F64.lt ⟨0x3FF0CCCCCCCCCCCD#64⟩ (F64.abs (F64.mul g.gain r)) = false) ∧
      ∀ r ∈ [zeroF], F64.lt g.peak (F64.abs (F64.mul g.gain r)) = false := by decide +kernel

theorem test_witness_PresenceNeverReturnsToUnknown :
    ∃ s t : State, exec (.push oneF oneF) s = .next t ∧ s.dp.agc.pres ≠ .unknown :=
  ⟨{ wfmStream with dp := { wfmStream.dp with agc := ⟨oneF, oneF, .present⟩ } }, _, rfl, by decide⟩

theorem clamped_not_present (D : Derived F64) (r : F64) :
    (agcStep f64 documentConsts D clampedStream.dp.agc r).1.pres = .notPresent := by
  have h : ∀ g : AgcRegs F64, g.gain = clampedStream.dp.agc.gain →
      (agcUpdate f64 documentConsts D g).pres = .notPresent := fun g hg => by
    unfold agcUpdate
    rw [if_pos (by rw [hg]; decide)]
  refine h _ ?_
  unfold agcPeak
  split <;> rfl

theorem nan_peak_present (D : Derived F64) (r : F64) :
    (agcStep f64 documentConsts D presentAgc r).1.pres = .present := by
  have h : agcPeak f64 presentAgc (f64.mul presentAgc.gain r) = presentAgc := by
    unfold agcPeak
    exact if_neg (by simp [f64, F64.lt, presentAgc, show nanF.isNaN = true by decide])
  show (agcUpdate f64 documentConsts D (agcPeak f64 presentAgc (f64.mul presentAgc.gain r))).pres = _
  rw [h]
  unfold agcUpdate
  rw [if_neg (by decide), if_neg (by decide), if_neg (by decide)]

theorem test_witness_MonoFrameCollapsesToTheDelayLine :
    ∃ (E : Setup F64) (d : Datapath F64) (x : F64),
      (agcStep f64 documentConsts E.derived d.agc (firGet f64 params.mpxL Config.hPilot.toList
        (ringPush f64 params.mpxL d.pbh x))).1.pres ≠ .present :=
  ⟨clampedStream.setup, clampedStream.dp, oneF, by
    show (agcStep f64 documentConsts _ clampedStream.dp.agc _).1.pres ≠ .present
    rw [clamped_not_present]; decide⟩

theorem test_witness_StereoFrameRebuildsLeftAndRight :
    ∃ (E : Setup F64) (d : Datapath F64) (x : F64),
      (agcStep f64 documentConsts E.derived d.agc (firGet f64 params.mpxL Config.hPilot.toList
        (ringPush f64 params.mpxL d.pbh x))).1.pres = .present :=
  ⟨presentStream.setup, presentStream.dp, oneF, nan_peak_present _ _⟩

theorem test_witness_OscillatorRunsOnlyWithAPilot :
    (∃ t, exec (.push oneF zeroF) nfmStream = .next t ∧ t.dp.agc.pres ≠ .present) ∧
    (∃ t, exec (.push oneF zeroF) presentStream = .next t ∧ t.dp.agc.pres = .present ∧
      presentStream.ss = .opened ∧ presentStream.derived.mod = 5#4) :=
  ⟨⟨_, rfl, by decide⟩, ⟨_, rfl, rfl, rfl, rfl⟩⟩

theorem test_witness_IdealStereoMatrixRecoversTheChannels :
    ∃ E : Setup ℝ, E.width = 1 ∧ E.derived.sgain = stereoGain ideal E.width :=
  ⟨⟨152000#32, 1, { Derived.reset ideal with sgain := stereoGain ideal 1 }⟩, rfl, rfl⟩

/-- A tie, and the least value that overflows. -/
theorem test_witness_RoundingIsToNearestEven :
    0 < 2 ∧ F64.roundMag 1 2 < F64.infMag ∧ 0 < F64.infMag ∧
    F64.roundMag ((2 ^ 54 - 1) * 2 ^ 2044) 1 = F64.infMag ∧ 4294967295 < 2 ^ 32 := by decide +kernel

/-- The largest finite value against the least positive one. -/
theorem test_witness_FiniteArithmeticIsExactThenRoundedOnce :
    (⟨0x7FEFFFFFFFFFFFFF#64⟩ : F64).exponentField ≠ 2047 ∧
    (⟨0x8000000000000001#64⟩ : F64).exponentField ≠ 2047 := by decide

/-- The value of the least positive pattern, and of 1.0: a divisor that is not zero. -/
theorem test_value :
    (⟨0x0000000000000001#64⟩ : F64).value = 1 / 2 ^ 1074 ∧ oneF.value = 1 := by
  constructor
  · rw [F64.value_eq, show (⟨0x0000000000000001#64⟩ : F64).toInt = 1 by decide +kernel]
    norm_num
  · rw [F64.value_eq, show oneF.toInt = 2 ^ 1074 by decide +kernel, Int.cast_pow, Int.cast_ofNat]
    exact div_self (pow_ne_zero _ two_ne_zero)

/-- An operand of each class. -/
theorem test_witness_SpecialValuesFollowIeee754 :
    (nanF.exponentField = 2047 ∧ nanF.fractionField ≠ 0) ∧
    ((⟨0xFFF0000000000000#64⟩ : F64).exponentField = 2047 ∧
      (⟨0xFFF0000000000000#64⟩ : F64).fractionField = 0) ∧
    (zeroF.exponentField = 0 ∧ zeroF.fractionField = 0) ∧
    (F64.mul ⟨0xFFF0000000000000#64⟩ oneF).fractionField = 0 := by decide +kernel

/-- The largest finite value and the least positive one, a NaN, and the least negative value. -/
theorem test_witness_SquareRootIsTheNearest :
    (∀ x ∈ [(⟨0x7FEFFFFFFFFFFFFF#64⟩ : F64), ⟨0x0000000000000001#64⟩],
      x.isFinite = true ∧ x.sign = false ∧ x.isZero = false) ∧
    (nanF.exponentField = 2047 ∧ nanF.fractionField ≠ 0) ∧
    ((⟨0x8000000000000001#64⟩ : F64).bits.getLsbD 63 = true ∧
      (⟨0x8000000000000001#64⟩ : F64) ≠ ⟨0x8000000000000000#64⟩) := by decide +kernel

theorem test_witness_NanComparesFalse :
    nanF.isNaN = true ∧ (⟨nanF, nanF, .unknown⟩ : AgcRegs F64).gain.isNaN = true ∧
    oneF.isNaN = false ∧ oneF.exponentField ≠ 2047 := by decide

end Sys2Proof.Tests
end

section
/-! SUPPORT for the statements of the family 00_scope.  Rounding to binary64 of a real number counted
in units of `2 ^ -1074`.  Magnitude patterns count strictly rising numbers of units, so a value rounds
to the number of patterns that it rounds above; every nearness and tie fact follows from that, and it
is shown of the shared rounding once and of the square root once. -/

namespace Sys2Proof

/-- The units of `2 ^ -1074` that a magnitude pattern counts, `+infinity` taken for `2 ^ 1024`. -/
def F64.unitsOf (m : Nat) : Nat :=
  if m / 2 ^ 52 = 0 then m % 2 ^ 52 else (2 ^ 52 + m % 2 ^ 52) * 2 ^ (m / 2 ^ 52 - 1)

theorem F64.units_eq_unitsOf (x : F64) : x.units = F64.unitsOf x.mag := rfl

theorem F64.units_ofMag (neg : Bool) {m : Nat} (h : m < 2 ^ 63) :
    (F64.ofMag neg m).units = F64.unitsOf m := by
  rw [F64.units_eq_unitsOf, F64.mag_ofMag neg h]

/-- The patterns of one binade, its upper end included, are the multiples of its last place. -/
theorem F64.unitsOf_binade {k q : Nat} (hlo : 0 < k → 2 ^ 52 ≤ q) (hhi : q ≤ 2 ^ 53) :
    F64.unitsOf (k * 2 ^ 52 + q) = q * 2 ^ k := by
  unfold F64.unitsOf
  rcases Nat.lt_or_ge q (2 ^ 52) with hq | hq
  · obtain rfl : k = 0 := by omega
    rw [if_pos (by omega)]
    omega
  rcases Nat.lt_or_ge q (2 ^ 53) with hq' | hq'
  · rw [if_neg (by omega), show (k * 2 ^ 52 + q) / 2 ^ 52 - 1 = k by omega,
      show 2 ^ 52 + (k * 2 ^ 52 + q) % 2 ^ 52 = q by omega]
  · obtain rfl : q = 2 ^ 53 := by omega
    rw [if_neg (by omega), show (k * 2 ^ 52 + 2 ^ 53) / 2 ^ 52 - 1 = k + 1 by omega,
      show (k * 2 ^ 52 + 2 ^ 53) % 2 ^ 52 = 0 by omega, pow_succ]
    ring

theorem F64.unitsOf_binade_succ {k q : Nat} (hlo : 0 < k → 2 ^ 52 ≤ q) (hhi : q < 2 ^ 53) :
    F64.unitsOf (k * 2 ^ 52 + q + 1) = (q + 1) * 2 ^ k := by
  rw [add_assoc, F64.unitsOf_binade (fun h => (hlo h).trans (Nat.le_succ q)) hhi]

/-- Every pattern stands in a binade. -/
theorem F64.exists_binade (m : Nat) :
    ∃ k q, m = k * 2 ^ 52 + q ∧ (0 < k → 2 ^ 52 ≤ q) ∧ q < 2 ^ 53 ∧ k = m / 2 ^ 52 - 1 :=
  ⟨m / 2 ^ 52 - 1, m - (m / 2 ^ 52 - 1) * 2 ^ 52, by omega, by omega, by omega, rfl⟩

/-- Neighbouring patterns are one last place apart. -/
theorem F64.unitsOf_succ (m : Nat) :
    F64.unitsOf (m + 1) = F64.unitsOf m + 2 ^ (m / 2 ^ 52 - 1) := by
  obtain ⟨k, q, hm, hlo, hhi, hk⟩ := F64.exists_binade m
  rw [← hk, hm, F64.unitsOf_binade_succ hlo hhi, F64.unitsOf_binade hlo hhi.le]
  ring

theorem F64.unitsOf_strictMono : StrictMono F64.unitsOf :=
  strictMono_nat_of_lt_succ fun m => by
    rw [F64.unitsOf_succ]
    exact Nat.lt_add_of_pos_right (Nat.two_pow_pos _)

theorem F64.unitsOf_eq_zero_iff {m : Nat} : F64.unitsOf m = 0 ↔ m = 0 :=
  F64.unitsOf_strictMono.injective.eq_iff' (by decide)

/-- Twice the midpoint of a pattern and the next, in units. -/
def F64.midSum (m : Nat) : Nat := F64.unitsOf m + F64.unitsOf (m + 1)

/-- `v`, in units of `2 ^ -1074`, rounds above the pattern `m`: it is past the midpoint of `m` and
the next pattern, or at it with `m` odd. -/
def F64.RoundsAbove (v : ℝ) (m : Nat) : Prop :=
  (F64.midSum m : ℝ) < 2 * v ∨ ((F64.midSum m : ℝ) = 2 * v ∧ m % 2 = 1)

/-- `r` is the magnitude that `v` units of `2 ^ -1074` round to: `v` rounds above exactly the
patterns below `r`. -/
def F64.IsRounding (v : ℝ) (r : Nat) : Prop :=
  r ≤ F64.infMag ∧ ∀ m, m < F64.infMag → (m < r ↔ F64.RoundsAbove v m)

theorem F64.midSum_strictMono : StrictMono F64.midSum := fun _ _ h =>
  Nat.add_lt_add (F64.unitsOf_strictMono h) (F64.unitsOf_strictMono (Nat.succ_lt_succ h))

/-- A value between two neighbouring patterns rounds to one of the two. -/
theorem F64.roundsAbove_iff_of_bracket {v : ℝ} {b m : Nat} (hlo : (F64.unitsOf b : ℝ) ≤ v)
    (hhi : v < F64.unitsOf (b + 1)) :
    F64.RoundsAbove v m ↔ m < b ∨ (m = b ∧ F64.RoundsAbove v b) := by
  rcases lt_trichotomy m b with h | rfl | h
  · have h1 : (F64.unitsOf m : ℝ) < F64.unitsOf b := by
      exact_mod_cast F64.unitsOf_strictMono h
    have h2 : (F64.unitsOf (m + 1) : ℝ) ≤ F64.unitsOf b := by
      exact_mod_cast F64.unitsOf_strictMono.monotone h
    refine iff_of_true (.inl ?_) (.inl h)
    unfold F64.midSum
    push_cast
    linarith
  · simp
  · have h1 : (F64.unitsOf (b + 1) : ℝ) ≤ F64.unitsOf m := by
      exact_mod_cast F64.unitsOf_strictMono.monotone h
    have h2 : (F64.unitsOf (b + 1) : ℝ) ≤ F64.unitsOf (m + 1) := by
      exact_mod_cast F64.unitsOf_strictMono.monotone (Nat.le_succ_of_le h)
    refine iff_of_false ?_ (by omega)
    unfold F64.RoundsAbove F64.midSum
    push_cast
    rintro (h3 | ⟨h3, -⟩) <;> linarith

theorem F64.isRounding_min_of_bracket {v : ℝ} {b r : Nat} (hlo : (F64.unitsOf b : ℝ) ≤ v)
    (hhi : v < F64.unitsOf (b + 1))
    (hr : F64.RoundsAbove v b ∧ r = b + 1 ∨ ¬ F64.RoundsAbove v b ∧ r = b) :
    F64.IsRounding v (min r F64.infMag) := by
  refine ⟨min_le_right _ _, fun m hm => ?_⟩
  rw [F64.roundsAbove_iff_of_bracket hlo hhi, lt_min_iff, and_iff_left hm]
  rcases hr with ⟨hb, rfl⟩ | ⟨hb, rfl⟩
  · rw [Nat.lt_succ_iff_lt_or_eq]
    simp [hb]
  · simp [hb]

/-- The exponent the shared rounding takes puts the quotient into one binade. -/
theorem F64.roundMag_quotient_bounds (num den : Nat) :
    let k := Nat.log2 (num / den) - 52
    let q := num / (den * 2 ^ k)
    (0 < k → 2 ^ 52 ≤ q) ∧ q < 2 ^ 53 := by
  intro k q
  have hq : q = num / den / 2 ^ k := (Nat.div_div_eq_div_mul _ _ _).symm
  rw [hq]
  constructor
  · intro hk
    rw [Nat.le_div_iff_mul_le (Nat.two_pow_pos k), ← pow_add]
    have hn : num / den ≠ 0 := by
      intro h0
      simp [k, h0] at hk
    calc 2 ^ (52 + k) = 2 ^ Nat.log2 (num / den) := by congr 1; omega
      _ ≤ num / den := Nat.log2_self_le hn
  · rw [Nat.div_lt_iff_lt_mul (Nat.two_pow_pos k), ← pow_add]
    calc num / den < 2 ^ (Nat.log2 (num / den) + 1) := Nat.lt_log2_self
      _ ≤ 2 ^ (53 + k) := Nat.pow_le_pow_right two_pos (by omega)

/-- A quotient rounds above a pattern of a binade when it is past `q + 1/2` last places. -/
theorem F64.roundsAbove_quotient_iff (num : Nat) {den k q : Nat} (hd : 0 < den)
    (hlo : 0 < k → 2 ^ 52 ≤ q) (hhi : q < 2 ^ 53) :
    F64.RoundsAbove ((num : ℝ) / den) (k * 2 ^ 52 + q) ↔
      den * 2 ^ k * (2 * q + 1) < 2 * num ∨ (den * 2 ^ k * (2 * q + 1) = 2 * num ∧ q % 2 = 1) := by
  have hd0 : (0 : ℝ) < den := by exact_mod_cast hd
  have hmid : F64.midSum (k * 2 ^ 52 + q) * den = den * 2 ^ k * (2 * q + 1) := by
    rw [F64.midSum, F64.unitsOf_binade hlo hhi.le, F64.unitsOf_binade_succ hlo hhi]
    ring
  have hparity : (k * 2 ^ 52 + q) % 2 = q % 2 := by omega
  rw [F64.RoundsAbove, ← mul_div_assoc, lt_div_iff₀ hd0, eq_div_iff hd0.ne', hparity, ← hmid]
  norm_cast

/-- The shared rounding answers the rounding of the quotient. -/
theorem F64.isRounding_roundMag (num : Nat) {den : Nat} (hd : 0 < den) :
    F64.IsRounding ((num : ℝ) / den) (F64.roundMag num den) := by
  unfold F64.roundMag
  obtain ⟨hlo, hhi⟩ := F64.roundMag_quotient_bounds num den
  extract_lets k d q r up at *
  have hd0 : (0 : ℝ) < den := by exact_mod_cast hd
  have hr : r < d := Nat.mod_lt _ (Nat.mul_pos hd (Nat.two_pow_pos k))
  have hnum : num = d * q + r := (Nat.div_add_mod num d).symm
  have habove : F64.RoundsAbove ((num : ℝ) / den) (k * 2 ^ 52 + q) ↔ up = true := by
    have hhalf : d * (2 * q + 1) = 2 * (d * q) + d := by ring
    rw [F64.roundsAbove_quotient_iff num hd hlo hhi, show den * 2 ^ k = d from rfl, hhalf]
    simp only [up, Bool.or_eq_true, Bool.and_eq_true, decide_eq_true_eq]
    omega
  refine F64.isRounding_min_of_bracket (b := k * 2 ^ 52 + q) ?_ ?_ ?_
  · rw [F64.unitsOf_binade hlo hhi.le, le_div_iff₀ hd0]
    have hle : q * 2 ^ k * den ≤ num := by
      calc q * 2 ^ k * den = d * q := by ring
        _ ≤ num := by omega
    exact_mod_cast hle
  · rw [F64.unitsOf_binade_succ hlo hhi, div_lt_iff₀ hd0]
    have hlt : num < (q + 1) * 2 ^ k * den := by
      calc num < d * q + d := by omega
        _ = (q + 1) * 2 ^ k * den := by ring
    exact_mod_cast hlt
  · rw [habove]
    by_cases hup : up = true
    · exact .inl ⟨hup, by rw [if_pos hup, add_assoc]⟩
    · exact .inr ⟨hup, by rw [if_neg hup]⟩

/-! ## What a rounding is among all patterns -/

theorem F64.midSum_zero : F64.midSum 0 = 1 := by decide

/-- The greatest finite pattern ends in a one, and its midpoint is the overflow threshold. -/
theorem F64.midSum_maxFinite : F64.midSum (F64.infMag - 1) = (2 ^ 54 - 1) * 2 ^ 2045 := by
  have h : F64.infMag - 1 = 2045 * 2 ^ 52 + (2 ^ 53 - 1) := by decide
  unfold F64.midSum
  rw [h, F64.unitsOf_binade (by omega) (by omega), F64.unitsOf_binade_succ (by omega) (by omega),
    ← Nat.add_mul]
  congr 1

theorem F64.IsRounding.eq_inf_iff {v : ℝ} {r : Nat} (h : F64.IsRounding v r) :
    r = F64.infMag ↔ (((2 ^ 54 - 1) * 2 ^ 2045 : ℕ) : ℝ) ≤ 2 * v := by
  obtain ⟨hle, habove⟩ := h
  have hpos : 0 < F64.infMag := by decide
  have hodd : (F64.infMag - 1) % 2 = 1 := by decide
  calc r = F64.infMag ↔ F64.infMag - 1 < r := by omega
    _ ↔ _ := by
      rw [habove _ (Nat.sub_lt hpos one_pos), F64.RoundsAbove, F64.midSum_maxFinite,
        le_iff_lt_or_eq, and_iff_left hodd]

/-- What rounds to `r` is past the middle of `r` and any pattern below, or at it with `r` even. -/
theorem F64.IsRounding.add_le_of_lt {v : ℝ} {m r : Nat} (h : F64.IsRounding v r) (hm : m < r) :
    (F64.unitsOf m : ℝ) + F64.unitsOf r ≤ 2 * v ∧
    ((F64.unitsOf m : ℝ) + F64.unitsOf r = 2 * v → r % 2 = 0) := by
  obtain ⟨hle, habove⟩ := h
  obtain ⟨b, rfl⟩ : ∃ b, r = b + 1 := ⟨r - 1, by omega⟩
  have hb := (habove b hle).1 (Nat.lt_succ_self b)
  have hmb : (F64.unitsOf m : ℝ) ≤ F64.unitsOf b := by
    exact_mod_cast F64.unitsOf_strictMono.monotone (Nat.le_of_lt_succ hm)
  unfold F64.RoundsAbove F64.midSum at hb
  push_cast at hb
  rcases hb with hb | ⟨hb, hodd⟩
  · exact ⟨by linarith, fun heq => by linarith⟩
  · exact ⟨by linarith, fun _ => by omega⟩

/-- What rounds to a finite `r` is short of the middle of `r` and any pattern above, or at it with
`r` even. -/
theorem F64.IsRounding.le_add_of_gt {v : ℝ} {m r : Nat} (h : F64.IsRounding v r)
    (hr : r < F64.infMag) (hm : r < m) :
    2 * v ≤ (F64.unitsOf r : ℝ) + F64.unitsOf m ∧
    ((F64.unitsOf r : ℝ) + F64.unitsOf m = 2 * v → r % 2 = 0) := by
  have hb := (h.2 r hr).not.1 (lt_irrefl r)
  have hrm : (F64.unitsOf (r + 1) : ℝ) ≤ F64.unitsOf m := by
    exact_mod_cast F64.unitsOf_strictMono.monotone hm
  unfold F64.RoundsAbove F64.midSum at hb
  push_cast at hb
  rw [not_or, not_lt, not_and, Nat.mod_two_not_eq_one] at hb
  obtain ⟨hle, heven⟩ := hb
  exact ⟨by linarith, fun heq => heven (by linarith)⟩

/-- No pattern is nearer than a finite rounding, and one that another is as near as is even. -/
theorem F64.IsRounding.nearest {v : ℝ} {r : Nat} (h : F64.IsRounding v r) (hr : r < F64.infMag)
    (m : Nat) :
    |(F64.unitsOf r : ℝ) - v| ≤ |(F64.unitsOf m : ℝ) - v| ∧
    (|(F64.unitsOf r : ℝ) - v| = |(F64.unitsOf m : ℝ) - v| → m ≠ r → r % 2 = 0) := by
  rcases lt_trichotomy m r with hlt | rfl | hgt
  · obtain ⟨hsum, htie⟩ := h.add_le_of_lt hlt
    have hmr : (F64.unitsOf m : ℝ) < F64.unitsOf r := by exact_mod_cast F64.unitsOf_strictMono hlt
    rw [abs_of_neg (show (F64.unitsOf m : ℝ) - v < 0 by linarith)]
    refine ⟨abs_le.2 ⟨by linarith, by linarith⟩, fun heq _ => htie ?_⟩
    rcases abs_choice ((F64.unitsOf r : ℝ) - v) with habs | habs <;> linarith
  · exact ⟨le_rfl, fun _ hne => absurd rfl hne⟩
  · obtain ⟨hsum, htie⟩ := h.le_add_of_gt hr hgt
    have hrm : (F64.unitsOf r : ℝ) < F64.unitsOf m := by exact_mod_cast F64.unitsOf_strictMono hgt
    rw [abs_of_pos (show 0 < (F64.unitsOf m : ℝ) - v by linarith)]
    refine ⟨abs_le.2 ⟨by linarith, by linarith⟩, fun heq _ => htie ?_⟩
    rcases abs_choice ((F64.unitsOf r : ℝ) - v) with habs | habs <;> linarith

end Sys2Proof
end

section
/-! SUPPORT.  From a rounded magnitude to `F64.RoundsTo`: the sign put back and the units turned
into the real value of a pattern. -/

namespace Sys2Proof

theorem F64.lsb_eq (x : F64) : x.bits.getLsbD 0 = decide (x.mag % 2 = 1) := by
  rw [BitVec.getLsbD, Nat.testBit_zero]
  unfold F64.mag
  congr 2
  omega

/-- The infinity of a sign. -/
theorem F64.ofMag_infMag (neg : Bool) :
    F64.ofMag neg F64.infMag =
      if neg then ⟨0xFFF0000000000000#64⟩ else ⟨0x7FF0000000000000#64⟩ := by
  cases neg <;> decide

/-- The zero of a sign. -/
theorem F64.ofMag_zero (neg : Bool) :
    F64.ofMag neg 0 = if neg then ⟨0x8000000000000000#64⟩ else ⟨0x0000000000000000#64⟩ := by
  cases neg <;> decide

/-- The sign as a factor. -/
def F64.signFactor (neg : Bool) : ℝ := if neg then -1 else 1

theorem F64.abs_signFactor_mul (neg : Bool) (v : ℝ) : |F64.signFactor neg * v| = |v| := by
  cases neg <;> simp [F64.signFactor]

theorem F64.eq_true_iff_neg {neg : Bool} {v : ℝ} (hs : v = F64.signFactor neg * |v|) (hv : v ≠ 0) :
    neg = true ↔ v < 0 := by
  have hpos : 0 < |v| := abs_pos.2 hv
  cases neg
  · simp only [F64.signFactor, Bool.false_eq_true, if_false, one_mul] at hs
    simpa using hs.ge.trans' (abs_nonneg v)
  · simp only [F64.signFactor, if_true] at hs
    simp only [true_iff]
    linarith

theorem F64.signFactor_xor (a b : Bool) :
    F64.signFactor (a != b) = F64.signFactor a * F64.signFactor b := by
  cases a <;> cases b <;> simp [F64.signFactor]

theorem F64.scale_pos : (0 : ℝ) < 2 ^ 1074 := pow_pos two_pos _

theorem F64.scale_ne_zero : (2 : ℝ) ^ 1074 ≠ 0 := F64.scale_pos.ne'

theorem F64.value_mul_unitsPerOne (x : F64) :
    x.value * 2 ^ 1074 = F64.signFactor x.sign * F64.unitsOf x.mag := by
  rw [F64.value_eq, div_mul_cancel₀ _ F64.scale_ne_zero, F64.toInt, F64.units_eq_unitsOf,
    F64.signFactor]
  split <;> push_cast <;> ring

theorem F64.abs_mul_scale (v : ℝ) : |v| * 2 ^ 1074 = |v * 2 ^ 1074| := by
  rw [abs_mul, abs_of_pos F64.scale_pos]

theorem F64.abs_value (x : F64) : |x.value| * 2 ^ 1074 = F64.unitsOf x.mag := by
  rw [F64.abs_mul_scale, F64.value_mul_unitsPerOne, F64.abs_signFactor_mul, Nat.abs_cast]

theorem F64.IsRounding.eq_zero {r : Nat} (h : F64.IsRounding 0 r) : r = 0 := by
  have h0 := (h.2 0 (by decide)).not.2 (by simp [F64.RoundsAbove, F64.midSum_zero])
  omega

theorem F64.isRounding_zero : F64.IsRounding 0 0 :=
  ⟨Nat.zero_le _, fun m _ => iff_of_false (Nat.not_lt_zero m) <| by
    have h : F64.midSum 0 ≤ F64.midSum m := F64.midSum_strictMono.monotone (Nat.zero_le m)
    rw [F64.midSum_zero] at h
    have h' : (1 : ℝ) ≤ F64.midSum m := by exact_mod_cast h
    rintro (hm | ⟨hm, -⟩) <;> linarith⟩

/-- A finite rounding with the sign of `v` is at least as near to `v` as any finite value of either
sign. -/
theorem F64.IsRounding.nearest_value {neg : Bool} {v : ℝ} {r : Nat}
    (h : F64.IsRounding (|v| * 2 ^ 1074) r) (hs : v = F64.signFactor neg * |v|)
    (hr : r < F64.infMag) (m : F64) :
    |(F64.ofMag neg r).value - v| ≤ |m.value - v| ∧
    (|(F64.ofMag neg r).value - v| = |m.value - v| → m.value ≠ (F64.ofMag neg r).value →
      r % 2 = 0) := by
  have hpos := F64.scale_pos
  have hr63 : r < 2 ^ 63 := hr.trans (by decide)
  have hrv : (F64.ofMag neg r).value * 2 ^ 1074 = F64.signFactor neg * F64.unitsOf r := by
    rw [F64.value_mul_unitsPerOne, F64.sign_ofMag neg hr63, F64.mag_ofMag neg hr63]
  have herr : |(F64.ofMag neg r).value - v| * 2 ^ 1074 =
      |(F64.unitsOf r : ℝ) - |v| * 2 ^ 1074| := by
    have hvs : v * 2 ^ 1074 = F64.signFactor neg * (|v| * 2 ^ 1074) := by rw [← mul_assoc, ← hs]
    rw [F64.abs_mul_scale, sub_mul, hrv, hvs, ← mul_sub, F64.abs_signFactor_mul]
  have hfar : |(F64.unitsOf m.mag : ℝ) - |v| * 2 ^ 1074| ≤ |m.value - v| * 2 ^ 1074 := by
    rw [← F64.abs_value, ← sub_mul, ← F64.abs_mul_scale]
    exact mul_le_mul_of_nonneg_right (abs_abs_sub_abs_le _ _) hpos.le
  obtain ⟨hle, htie⟩ := h.nearest hr m.mag
  refine ⟨le_of_mul_le_mul_right (herr.le.trans (hle.trans hfar)) hpos, fun heq hne => ?_⟩
  by_cases hmr : m.mag = r
  · -- the same magnitude with the other sign is as near only to zero
    have hmv : m.value = -(F64.ofMag neg r).value := by
      have habs : |m.value| = |(F64.ofMag neg r).value| := by
        refine mul_right_cancel₀ hpos.ne' ?_
        rw [F64.abs_value, F64.abs_value, F64.mag_ofMag neg hr63, hmr]
      exact (abs_eq_abs.1 habs).resolve_left hne
    have hv : v = 0 := by
      rw [hmv, ← abs_neg (-_ - v), neg_sub, sub_neg_eq_add, add_comm, ← abs_neg, abs_eq_abs] at heq
      rcases heq with heq | heq
      · have hz : (F64.ofMag neg r).value = 0 := by linarith
        exact absurd (by rw [hmv, hz, neg_zero]) hne
      · linarith
    rw [hv, abs_zero, zero_mul] at h
    rw [h.eq_zero]
  · rw [heq] at herr
    exact htie (le_antisymm hle (hfar.trans herr.le)) hmr

/-- The overflow threshold as a real number. -/
theorem F64.IsRounding.eq_inf_iff_threshold {v : ℝ} {r : Nat}
    (h : F64.IsRounding (v * 2 ^ 1074) r) :
    r = F64.infMag ↔ (2 ^ 54 - 1) * 2 ^ 970 ≤ v := by
  have hsplit (n : ℝ) (a b : Nat) : n * 2 ^ (a + 1 + b) = 2 * (n * 2 ^ a * 2 ^ b) := by
    rw [pow_add, pow_succ]
    ring
  have hscale : (((2 ^ 54 - 1) * 2 ^ 2045 : ℕ) : ℝ) =
      2 * ((2 ^ 54 - 1) * 2 ^ 970 * 2 ^ 1074) := by
    rw [← hsplit, Nat.cast_mul, Nat.cast_pow, Nat.cast_ofNat]
    congr 1
    norm_num
  rw [h.eq_inf_iff, hscale, mul_le_mul_iff_right₀ two_pos, mul_le_mul_iff_left₀ F64.scale_pos]

/-- A magnitude rounded in units, with the sign of the value, is the value rounded once. -/
theorem F64.IsRounding.roundsTo {neg : Bool} {v : ℝ} {r : Nat}
    (h : F64.IsRounding (|v| * 2 ^ 1074) r) (hs : v = F64.signFactor neg * |v|) :
    F64.RoundsTo v (F64.ofMag neg r) := by
  have hr63 : r < 2 ^ 63 := h.1.trans_lt (by decide)
  have hinf := h.eq_inf_iff_threshold
  constructor
  · intro hlt
    have hr : r < F64.infMag := lt_of_le_of_ne h.1 (hinf.not.2 hlt.not_ge)
    refine ⟨?_, fun m _ => ?_⟩
    · rw [← F64.isFinite_iff, F64.isFinite, F64.mag_ofMag neg hr63]
      exact decide_eq_true hr
    · obtain ⟨hle, htie⟩ := h.nearest_value hs hr m
      refine ⟨hle, fun heq hne => ?_⟩
      rw [F64.lsb_eq, F64.mag_ofMag neg hr63, htie heq hne]
      rfl
  · intro hge
    have hpos : 0 < |v| := lt_of_lt_of_le (by positivity) hge
    rw [hinf.2 hge, F64.ofMag_infMag]
    simp only [F64.eq_true_iff_neg hs (abs_pos.1 hpos)]

end Sys2Proof
end

section
/-! O56: the shared rounding, the literals and `f64`. -/

namespace Sys2Proof

theorem F64.unitsPerOne_eq : F64.unitsPerOne = 2 ^ 1074 := by unfold F64.unitsPerOne; rfl

theorem F64.unitsPerOne_pos : 0 < F64.unitsPerOne := by
  rw [F64.unitsPerOne_eq]
  exact pow_pos two_pos _

theorem F64.cast_unitsPerOne : (F64.unitsPerOne : ℝ) = 2 ^ 1074 := by
  rw [F64.unitsPerOne_eq, Nat.cast_pow, Nat.cast_ofNat]

/-- The distance of a pattern from `num / den`, counted in units of `1 / den`. -/
theorem F64.cast_natAbs_error (num : Nat) {den m : Nat} (hd : 0 < den) (hm : m < 2 ^ 63) :
    (((num : Int) - (F64.ofMag false m).units * den).natAbs : ℝ) =
      |(F64.unitsOf m : ℝ) - (num : ℝ) / den| * den := by
  have hd0 : (0 : ℝ) < den := by exact_mod_cast hd
  rw [F64.units_ofMag false hm, Nat.cast_natAbs, abs_sub_comm (F64.unitsOf m : ℝ)]
  push_cast
  rw [← abs_of_pos hd0, ← abs_mul, abs_of_pos hd0, sub_mul, div_mul_cancel₀ _ hd0.ne']

theorem F64.roundMag_nearest (num : Nat) {den : Nat} (hd : 0 < den)
    (hr : F64.roundMag num den < F64.infMag) {m : Nat} (hm : m < F64.infMag) :
    let err := fun k : Nat => ((num : Int) - (F64.ofMag false k).units * den).natAbs
    err (F64.roundMag num den) ≤ err m ∧
    (err (F64.roundMag num den) = err m → m ≠ F64.roundMag num den →
      F64.roundMag num den % 2 = 0) := by
  intro err
  have hd0 : (0 : ℝ) < den := by exact_mod_cast hd
  obtain ⟨hle, htie⟩ := (F64.isRounding_roundMag num hd).nearest hr m
  have hcast {k : Nat} (hk : k < F64.infMag) := F64.cast_natAbs_error num hd (hk.trans (by decide))
  constructor
  · rw [← Nat.cast_le (α := ℝ), hcast hr, hcast hm]
    exact mul_le_mul_of_nonneg_right hle hd0.le
  · intro heq
    rw [← Nat.cast_inj (R := ℝ), hcast hr, hcast hm] at heq
    exact htie (mul_right_cancel₀ hd0.ne' heq)

theorem F64.roundMag_eq_inf_iff (num : Nat) {den : Nat} (hd : 0 < den) :
    F64.roundMag num den = F64.infMag ↔ (2 ^ 54 - 1) * 2 ^ 2045 * den ≤ 2 * num := by
  have hd0 : (0 : ℝ) < den := by exact_mod_cast hd
  rw [(F64.isRounding_roundMag num hd).eq_inf_iff, ← mul_div_assoc, le_div_iff₀ hd0,
    ← Nat.cast_mul, show 2 * (num : ℝ) = ((2 * num : ℕ) : ℝ) by push_cast; rfl, Nat.cast_le]

/-- A magnitude rounded by the shared rounding, with the sign of `v`, is `v` rounded once. -/
theorem F64.roundsTo_ofMag_roundMag {neg : Bool} {v : ℝ} {num den : Nat} (hd : 0 < den)
    (habs : |v| * 2 ^ 1074 = (num : ℝ) / den) (hs : v = F64.signFactor neg * |v|) :
    F64.RoundsTo v (F64.ofMag neg (F64.roundMag num den)) :=
  F64.IsRounding.roundsTo (habs ▸ F64.isRounding_roundMag num hd) hs

theorem F64.lit_roundsTo (n : Nat) {d : Nat} (hd : 0 < d) :
    F64.RoundsTo ((n : ℝ) / d) (F64.lit n d) := by
  have hnn : 0 ≤ (n : ℝ) / d := by positivity
  refine F64.roundsTo_ofMag_roundMag hd ?_ ?_
  · rw [abs_of_nonneg hnn, Nat.cast_mul, F64.cast_unitsPerOne, div_mul_eq_mul_div]
  · rw [abs_of_nonneg hnn]
    simp [F64.signFactor]

theorem F64.sign_lit (n d : Nat) : (F64.lit n d).sign = false :=
  F64.sign_ofMag false (F64.roundMag_lt _ _)

/-- Only `v` itself is nearest to a representable `v`. -/
theorem F64.RoundsTo.eq_value {r m : F64} (h : F64.RoundsTo m.value r)
    (hlt : |m.value| < (2 ^ 54 - 1) * 2 ^ 970) (hm : m.exponentField ≠ 2047) :
    r.exponentField ≠ 2047 ∧ r.value = m.value := by
  obtain ⟨hfin, hnear⟩ := h.1 hlt
  refine ⟨hfin, ?_⟩
  have hle := (hnear m hm).1
  rw [sub_self, abs_zero] at hle
  exact sub_eq_zero.1 (abs_nonpos_iff.1 hle)

/-- A number of at most 53 bits is the value of a pattern. -/
theorem F64.exists_value_eq_natCast {n : Nat} (hn : n < 2 ^ 53) :
    ∃ m : F64, m.exponentField ≠ 2047 ∧ m.value = n := by
  rcases Nat.eq_zero_or_pos n with rfl | hpos
  · refine ⟨⟨0#64⟩, by decide, ?_⟩
    rw [F64.value_eq, show (⟨0#64⟩ : F64).toInt = 0 by decide]
    simp
  have hlog : Nat.log2 n < 53 := (Nat.log2_lt hpos.ne').2 hn
  have hq : 2 ^ 52 ≤ n * 2 ^ (52 - Nat.log2 n) := by
    calc 2 ^ 52 = 2 ^ Nat.log2 n * 2 ^ (52 - Nat.log2 n) := by rw [← pow_add]; congr 1; omega
      _ ≤ n * 2 ^ (52 - Nat.log2 n) := Nat.mul_le_mul_right _ (Nat.log2_self_le hpos.ne')
  have hq' : n * 2 ^ (52 - Nat.log2 n) < 2 ^ 53 := by
    calc n * 2 ^ (52 - Nat.log2 n) < 2 ^ (Nat.log2 n + 1) * 2 ^ (52 - Nat.log2 n) :=
          Nat.mul_lt_mul_of_pos_right Nat.lt_log2_self (Nat.two_pow_pos _)
      _ = 2 ^ 53 := by rw [← pow_add]; congr 1; omega
  have hunits := F64.unitsOf_binade (k := 1022 + Nat.log2 n) (fun _ => hq) hq'.le
  generalize hm : (1022 + Nat.log2 n) * 2 ^ 52 + n * 2 ^ (52 - Nat.log2 n) = m at hunits
  have hmlt : m < F64.infMag := by unfold F64.infMag; omega
  have hm63 : m < 2 ^ 63 := hmlt.trans (by decide)
  refine ⟨F64.ofMag false m, ?_, ?_⟩
  · rw [← F64.isFinite_iff, F64.isFinite, F64.mag_ofMag false hm63]
    exact decide_eq_true hmlt
  · have hscale : n * 2 ^ (52 - Nat.log2 n) * 2 ^ (1022 + Nat.log2 n) = n * 2 ^ 1074 := by
      rw [mul_assoc, ← pow_add]
      congr 2
      omega
    refine mul_right_cancel₀ F64.scale_ne_zero ?_
    rw [F64.value_mul_unitsPerOne, F64.sign_ofMag false hm63, F64.mag_ofMag false hm63, hunits,
      hscale, Nat.cast_mul, Nat.cast_pow, Nat.cast_ofNat]
    simp [F64.signFactor]

theorem F64.ofNat_exact {n : Nat} (hn : n < 2 ^ 32) :
    (F64.ofNat n).exponentField ≠ 2047 ∧ (F64.ofNat n).value = n := by
  obtain ⟨m, hfin, hval⟩ := F64.exists_value_eq_natCast (hn.trans (by norm_num))
  have hround : F64.RoundsTo m.value (F64.ofNat n) := by
    have := F64.lit_roundsTo n one_pos
    rwa [Nat.cast_one, div_one, ← hval] at this
  have hlt : |m.value| < (2 ^ 54 - 1) * 2 ^ 970 := by
    rw [hval, Nat.abs_cast]
    calc (n : ℝ) < 2 ^ 32 := by exact_mod_cast hn
      _ ≤ (2 ^ 54 - 1) * 1 := by norm_num
      _ ≤ (2 ^ 54 - 1) * 2 ^ 970 :=
        mul_le_mul_of_nonneg_left (one_le_pow₀ one_le_two) (by norm_num)
  rw [← hval]
  exact hround.eq_value hlt hfin

/-- Settles O56: the shared rounding compares the remainder with half a last place, so it answers
the number of patterns whose midpoints the quotient passes. -/
theorem roundingIsToNearestEven : Obligations.RoundingIsToNearestEven :=
  ⟨fun num _ hd => ⟨fun hr _ hm => F64.roundMag_nearest num hd hr hm,
      F64.roundMag_eq_inf_iff num hd⟩,
    fun n d hd => ⟨F64.lit_roundsTo n hd, F64.sign_lit n d⟩,
    fun _ hn => F64.ofNat_exact hn⟩

end Sys2Proof
end

section
/-! O57: the four operations on finite operands. -/

namespace Sys2Proof

theorem F64.mag_eq_setWidth (x : F64) : x.mag = (x.bits.setWidth 63).toNat :=
  (BitVec.toNat_setWidth 63 x.bits).symm

@[simp] theorem F64.mag_neg (x : F64) : x.neg.mag = x.mag := by
  rw [F64.mag_eq_setWidth, F64.mag_eq_setWidth, F64.neg, BitVec.setWidth_xor,
    show (0x8000000000000000#64).setWidth 63 = 0#63 by decide, BitVec.xor_zero]

@[simp] theorem F64.sign_neg (x : F64) : x.neg.sign = !x.sign := by
  rw [F64.sign, F64.neg, BitVec.getLsbD_xor,
    show (0x8000000000000000#64).getLsbD 63 = true by decide, Bool.xor_true, F64.sign]

theorem F64.isFinite_neg (x : F64) : x.neg.isFinite = x.isFinite := by simp [F64.isFinite]

theorem F64.value_neg (x : F64) : x.neg.value = -x.value := by
  rw [F64.value_eq, F64.value_eq, F64.toInt, F64.toInt, F64.units_eq_unitsOf, F64.units_eq_unitsOf,
    F64.sign_neg, F64.mag_neg]
  cases x.sign <;> simp [neg_div]

theorem F64.value_eq_signFactor_mul_abs (x : F64) :
    x.value = F64.signFactor x.sign * |x.value| := by
  refine mul_right_cancel₀ F64.scale_ne_zero ?_
  rw [F64.value_mul_unitsPerOne, mul_assoc, F64.abs_value]

/-! ## Addition and subtraction -/

theorem F64.value_add_value (a b : F64) :
    a.value + b.value = ((a.toInt + b.toInt : Int) : ℝ) / 2 ^ 1074 := by
  rw [F64.value_eq, F64.value_eq, Int.cast_add, add_div]

theorem F64.value_add_value_eq_zero_iff (a b : F64) :
    a.value + b.value = 0 ↔ a.toInt + b.toInt = 0 := by
  rw [F64.value_add_value, div_eq_zero_iff, or_iff_left F64.scale_ne_zero, Int.cast_eq_zero]

/-- An exact number of units is rounded once. -/
theorem F64.ofInt_roundsTo (n : Int) : F64.RoundsTo ((n : ℝ) / 2 ^ 1074) (F64.ofInt n) := by
  refine F64.roundsTo_ofMag_roundMag one_pos ?_ ?_
  · rw [F64.abs_mul_scale, div_mul_cancel₀ _ F64.scale_ne_zero, Nat.cast_one, div_one,
      Nat.cast_natAbs, Int.cast_abs]
  · have hpos := F64.scale_pos
    rcases lt_or_ge n 0 with hn | hn
    · have hv : (n : ℝ) / 2 ^ 1074 < 0 := div_neg_of_neg_of_pos (by exact_mod_cast hn) hpos
      simp [F64.signFactor, hn, abs_of_neg hv]
    · have hv : 0 ≤ (n : ℝ) / 2 ^ 1074 := div_nonneg (by exact_mod_cast hn) hpos.le
      simp [F64.signFactor, hn.not_gt, abs_of_nonneg hv]

theorem F64.zero_roundsTo (neg : Bool) : F64.RoundsTo 0 (F64.ofMag neg 0) :=
  F64.IsRounding.roundsTo (by simpa using F64.isRounding_zero) (by simp)

theorem F64.addNumbers_roundsTo {a b : F64} (ha : a.isFinite = true) (hb : b.isFinite = true) :
    F64.RoundsTo (a.value + b.value) (F64.addNumbers a b) := by
  rw [F64.addNumbers_finite ha hb]
  split
  next h =>
    rw [(F64.value_add_value_eq_zero_iff a b).2 h]
    exact F64.zero_roundsTo _
  next =>
    rw [F64.value_add_value]
    exact F64.ofInt_roundsTo _

theorem F64.addNumbers_eq_zero {a b : F64} (ha : a.isFinite = true) (hb : b.isFinite = true)
    (h : a.value + b.value = 0) : F64.addNumbers a b = F64.ofMag (a.sign && b.sign) 0 := by
  rw [F64.addNumbers_finite ha hb, if_pos ((F64.value_add_value_eq_zero_iff a b).1 h)]

/-! ## Multiplication and division -/

theorem F64.mul_roundsTo {a b : F64} (ha : a.isFinite = true) (hb : b.isFinite = true) :
    F64.RoundsTo (a.value * b.value) (F64.mul a b) := by
  rw [F64.mul_finite ha hb]
  refine F64.roundsTo_ofMag_roundMag F64.unitsPerOne_pos ?_ ?_
  · rw [F64.units_eq_unitsOf, F64.units_eq_unitsOf, Nat.cast_mul, ← F64.abs_value, ← F64.abs_value,
      F64.cast_unitsPerOne, abs_mul, eq_div_iff F64.scale_ne_zero,
      mul_assoc, mul_mul_mul_comm]
  · rw [F64.signFactor_xor, abs_mul, mul_mul_mul_comm, ← F64.value_eq_signFactor_mul_abs,
      ← F64.value_eq_signFactor_mul_abs]

theorem F64.units_pos_iff (x : F64) : 0 < x.units ↔ x.value ≠ 0 := by
  have hpos := F64.scale_pos
  rw [F64.units_eq_unitsOf, ← Nat.cast_pos (α := ℝ), ← F64.abs_value, mul_pos_iff_of_pos_right hpos,
    abs_pos]

theorem F64.isZero_eq_false_iff (x : F64) : x.isZero = false ↔ x.value ≠ 0 := by
  rw [← F64.units_pos_iff, F64.units_eq_unitsOf, F64.isZero, decide_eq_false_iff_not,
    Nat.pos_iff_ne_zero, Ne, F64.unitsOf_eq_zero_iff]

theorem F64.signFactor_mul_div (a b : Bool) (v w : ℝ) :
    F64.signFactor a * v / (F64.signFactor b * w) = F64.signFactor (a != b) * (v / w) := by
  cases a <;> cases b <;> simp [F64.signFactor, neg_div, div_neg]

theorem F64.div_roundsTo {a b : F64} (ha : a.isFinite = true) (hb : b.isFinite = true)
    (h0 : b.value ≠ 0) : F64.RoundsTo (a.value / b.value) (F64.div a b) := by
  rw [F64.div_finite ha hb ((F64.isZero_eq_false_iff b).2 h0)]
  refine F64.roundsTo_ofMag_roundMag ((F64.units_pos_iff b).2 h0) ?_ ?_
  · rw [F64.units_eq_unitsOf, F64.units_eq_unitsOf, Nat.cast_mul, ← F64.abs_value, ← F64.abs_value,
      F64.cast_unitsPerOne, abs_div, mul_div_mul_right _ _ F64.scale_ne_zero,
      div_mul_eq_mul_div]
  · rw [abs_div, ← F64.signFactor_mul_div, ← F64.value_eq_signFactor_mul_abs,
      ← F64.value_eq_signFactor_mul_abs]

/-- Settles O57: every operation is one use of the shared rounding on the exact result in units. -/
theorem finiteArithmeticIsExactThenRoundedOnce :
    Obligations.FiniteArithmeticIsExactThenRoundedOnce := by
  intro a b ha hb sa sb
  rw [← F64.isFinite_iff] at ha hb
  have hb' : b.neg.isFinite = true := (F64.isFinite_neg b).trans hb
  have hsub : a.value - b.value = a.value + b.neg.value := by rw [F64.value_neg, sub_eq_add_neg]
  refine ⟨?_, fun h => ?_, ?_, fun h => ?_, F64.mul_roundsTo ha hb, ?_,
    fun h0 => ⟨F64.div_roundsTo ha hb h0, ?_⟩⟩
  · rw [F64.add_finite ha hb]
    exact F64.addNumbers_roundsTo ha hb
  · rw [F64.add_finite ha hb, F64.addNumbers_eq_zero ha hb h, F64.ofMag_zero]
    rfl
  · rw [F64.sub_finite ha hb, hsub]
    exact F64.addNumbers_roundsTo ha hb'
  · rw [F64.sub_finite ha hb, F64.addNumbers_eq_zero ha hb' (hsub ▸ h), F64.ofMag_zero,
      F64.sign_neg]
    rfl
  · rw [F64.mul_finite ha hb]
    exact F64.sign_ofMag _ (F64.roundMag_lt _ _)
  · rw [F64.div_finite ha hb ((F64.isZero_eq_false_iff b).2 h0)]
    exact F64.sign_ofMag _ (F64.roundMag_lt _ _)

end Sys2Proof
end

section
/-! O58: the four operations on infinities, NaNs and zero divisors. -/

namespace Sys2Proof

/-! ## The classes of R66 -/

theorem F64.isNaN_iff (x : F64) :
    x.isNaN = true ↔ x.exponentField = 2047 ∧ x.fractionField ≠ 0 := by
  have h := x.mag_lt
  rw [F64.exponentField_eq, F64.fractionField_eq, F64.isNaN, F64.infMag, decide_eq_true_eq]
  omega

theorem F64.isInf_iff (x : F64) :
    x.isInf = true ↔ x.exponentField = 2047 ∧ x.fractionField = 0 := by
  have h := x.mag_lt
  rw [F64.exponentField_eq, F64.fractionField_eq, F64.isInf, F64.infMag, decide_eq_true_eq]
  omega

theorem F64.isZero_iff (x : F64) : x.isZero = true ↔ x.exponentField = 0 ∧ x.fractionField = 0 := by
  rw [F64.exponentField_eq, F64.fractionField_eq, F64.isZero, decide_eq_true_eq]
  omega

theorem F64.isNaN_eq_false_iff (x : F64) : x.isNaN = false ↔ x.mag ≤ F64.infMag := by
  rw [F64.isNaN, decide_eq_false_iff_not, not_lt]

/-- A magnitude up to infinity's is no NaN's. -/
theorem F64.isNaN_ofMag (neg : Bool) {m : Nat} (h : m ≤ F64.infMag) :
    (F64.ofMag neg m).isNaN = false := by
  rw [F64.isNaN_eq_false_iff, F64.mag_ofMag neg (h.trans_lt (by decide))]
  exact h

theorem F64.eq_ofMag_of_isInf {x : F64} (h : x.isInf = true) : x = F64.ofMag x.sign F64.infMag := by
  rw [F64.isInf, decide_eq_true_eq] at h
  conv_lhs => rw [← F64.ofMag_sign_mag x, h]

theorem F64.not_nan_of_inf {x : F64} (h : x.isInf = true) : x.isNaN = false := by
  rw [F64.isInf, decide_eq_true_eq] at h
  rw [F64.isNaN_eq_false_iff, h]

theorem F64.not_inf_of_zero {x : F64} (h : x.isZero = true) : x.isInf = false := by
  rw [F64.isZero, decide_eq_true_eq] at h
  rw [F64.isInf, h]
  decide

@[simp] theorem F64.isNaN_neg (x : F64) : x.neg.isNaN = x.isNaN := by simp [F64.isNaN]

@[simp] theorem F64.isInf_neg (x : F64) : x.neg.isInf = x.isInf := by simp [F64.isInf]

/-! ## NaN results -/

theorem F64.isNaN_nanResult (op : FloatOp) (a b : F64) : (F64.nanResult op a b).isNaN = true :=
  decide_eq_true (F64.nanResult_mag op a b)

theorem F64.quiet_nanResult (op : FloatOp) (a b : F64) :
    (F64.nanResult op a b).bits.getLsbD 51 = true := by
  rw [F64.nanResult, BitVec.getLsbD_or, show (0x7FF8000000000000#64).getLsbD 51 = true by decide,
    Bool.or_true]

/-- What an operation answers that is the quiet NaN of its operands in case `c` and the number `n`
otherwise. -/
def F64.NaNOr (r : F64) (c : Prop) (n : F64) : Prop :=
  (c ∧ r.isNaN = true ∧ r.bits.getLsbD 51 = true) ∨ (¬ c ∧ r = n ∧ n.isNaN = false)

theorem F64.nanOr_ite {c : Bool} {p : Prop} (hc : c = true ↔ p) (op : FloatOp) (a b : F64) {n : F64}
    (hn : ¬ p → n.isNaN = false) : F64.NaNOr (if c then F64.nanResult op a b else n) p n := by
  by_cases h : c = true
  · rw [if_pos h]
    exact .inl ⟨hc.1 h, F64.isNaN_nanResult op a b, F64.quiet_nanResult op a b⟩
  · rw [if_neg h]
    exact .inr ⟨hc.not.1 h, rfl, hn (hc.not.1 h)⟩

theorem F64.NaNOr.quiet {r n : F64} {c : Prop} (h : F64.NaNOr r c n) (hr : r.isNaN = true) :
    r.bits.getLsbD 51 = true := by
  rcases h with ⟨-, -, hq⟩ | ⟨-, rfl, hn⟩
  · exact hq
  · rw [hn] at hr
    cases hr

theorem F64.NaNOr.isNaN_iff {r n : F64} {c : Prop} (h : F64.NaNOr r c n) : r.isNaN = true ↔ c := by
  rcases h with ⟨hc, hr, -⟩ | ⟨hc, rfl, hn⟩
  · exact iff_of_true hr hc
  · exact iff_of_false (by simp [hn]) hc

theorem F64.NaNOr.number {r n : F64} {c : Prop} (h : F64.NaNOr r c n) (hr : ¬ r.isNaN = true) :
    ¬ c ∧ r = n := by
  rcases h with ⟨-, hnan, -⟩ | ⟨hc, hrn, -⟩
  · exact absurd hnan hr
  · exact ⟨hc, hrn⟩

/-! ## The four operations, each said once -/

theorem F64.isNaN_addNumbers {a b : F64} (ha : a.isNaN = false) (hb : b.isNaN = false) :
    (F64.addNumbers a b).isNaN = false := by
  unfold F64.addNumbers
  split
  · exact ha
  split
  · exact hb
  extract_lets v
  split
  · exact F64.isNaN_ofMag _ (Nat.zero_le _)
  · exact F64.isNaN_ofMag _ (F64.roundMag_le _ _)

theorem F64.add_nanOr (a b : F64) : F64.NaNOr (F64.add a b)
    (a.isNaN = true ∨ b.isNaN = true ∨ (a.isInf = true ∧ b.isInf = true ∧ a.sign ≠ b.sign))
    (F64.addNumbers a b) := by
  unfold F64.add
  refine F64.nanOr_ite (by simp [or_assoc, and_assoc]) .add a b fun hc => ?_
  simp only [not_or, Bool.not_eq_true] at hc
  obtain ⟨ha, hb, -⟩ := hc
  exact F64.isNaN_addNumbers ha hb

theorem F64.sub_nanOr (a b : F64) : F64.NaNOr (F64.sub a b)
    (a.isNaN = true ∨ b.isNaN = true ∨ (a.isInf = true ∧ b.isInf = true ∧ a.sign = b.sign))
    (F64.addNumbers a b.neg) := by
  unfold F64.sub
  refine F64.nanOr_ite (by simp [or_assoc, and_assoc]) .sub a b fun hc => ?_
  simp only [not_or, Bool.not_eq_true] at hc
  obtain ⟨ha, hb, -⟩ := hc
  exact F64.isNaN_addNumbers ha ((F64.isNaN_neg b).trans hb)

theorem F64.mul_nanOr (a b : F64) : F64.NaNOr (F64.mul a b)
    (a.isNaN = true ∨ b.isNaN = true ∨ (a.isInf = true ∧ b.isZero = true) ∨
      (a.isZero = true ∧ b.isInf = true))
    (F64.ofMag (a.sign != b.sign) (if a.isInf || b.isInf then F64.infMag
      else F64.roundMag (a.units * b.units) F64.unitsPerOne)) := by
  unfold F64.mul
  refine F64.nanOr_ite (by simp [or_assoc]) .mul a b fun _ => F64.isNaN_ofMag _ ?_
  split
  · exact le_rfl
  · exact F64.roundMag_le _ _

theorem F64.div_nanOr (a b : F64) : F64.NaNOr (F64.div a b)
    (a.isNaN = true ∨ b.isNaN = true ∨ (a.isInf = true ∧ b.isInf = true) ∨
      (a.isZero = true ∧ b.isZero = true))
    (F64.ofMag (a.sign != b.sign) (if a.isInf || b.isZero then F64.infMag
      else if b.isInf then 0 else F64.roundMag (a.units * F64.unitsPerOne) b.units)) := by
  unfold F64.div
  refine F64.nanOr_ite (by simp [or_assoc]) .div a b fun _ => F64.isNaN_ofMag _ ?_
  split
  · exact le_rfl
  split
  · exact Nat.zero_le _
  · exact F64.roundMag_le _ _

/-! ## Infinite operands and zero divisors -/

theorem F64.addNumbers_of_inf_left {a : F64} (b : F64) (ha : a.isInf = true) :
    F64.addNumbers a b = a := if_pos ha

theorem F64.addNumbers_of_inf_right {a b : F64} (hb : b.isInf = true)
    (hs : a.isInf = true → a.sign = b.sign) : F64.addNumbers a b = b := by
  by_cases ha : a.isInf = true
  · rw [F64.addNumbers_of_inf_left b ha, F64.eq_ofMag_of_isInf ha, F64.eq_ofMag_of_isInf hb, hs ha]
  · rw [F64.addNumbers, if_neg ha, if_pos hb]

theorem F64.add_of_inf {a b : F64} (h : ¬ (F64.add a b).isNaN = true) :
    (a.isInf = true → F64.add a b = a) ∧ (b.isInf = true → F64.add a b = b) := by
  obtain ⟨hc, hr⟩ := (F64.add_nanOr a b).number h
  rw [hr]
  refine ⟨F64.addNumbers_of_inf_left b, fun hb => F64.addNumbers_of_inf_right hb fun ha => ?_⟩
  by_contra hne
  exact hc (.inr (.inr ⟨ha, hb, hne⟩))

theorem F64.sub_of_inf {a b : F64} (h : ¬ (F64.sub a b).isNaN = true) :
    (a.isInf = true → F64.sub a b = a) ∧
    (b.isInf = true → F64.sub a b = F64.ofMag (!b.sign) F64.infMag) := by
  obtain ⟨hc, hr⟩ := (F64.sub_nanOr a b).number h
  rw [hr]
  refine ⟨F64.addNumbers_of_inf_left b.neg, fun hb => ?_⟩
  have hb' : b.neg.isInf = true := (F64.isInf_neg b).trans hb
  rw [F64.addNumbers_of_inf_right hb', F64.eq_ofMag_of_isInf hb', F64.sign_neg]
  intro ha
  rw [F64.sign_neg, Bool.eq_not]
  exact fun heq => hc (.inr (.inr ⟨ha, hb, heq⟩))

theorem F64.mul_of_inf {a b : F64} (h : ¬ (F64.mul a b).isNaN = true)
    (hinf : a.isInf = true ∨ b.isInf = true) :
    F64.mul a b = F64.ofMag (a.sign != b.sign) F64.infMag := by
  rw [((F64.mul_nanOr a b).number h).2, if_pos (Bool.or_eq_true _ _ ▸ hinf)]

theorem F64.div_eq_inf {a b : F64} (h : ¬ (F64.div a b).isNaN = true)
    (hinf : a.isInf = true ∨ b.isZero = true) :
    F64.div a b = F64.ofMag (a.sign != b.sign) F64.infMag := by
  rw [((F64.div_nanOr a b).number h).2, if_pos (Bool.or_eq_true _ _ ▸ hinf)]

theorem F64.div_eq_zero {a b : F64} (h : ¬ (F64.div a b).isNaN = true) (hb : b.isInf = true) :
    F64.div a b = F64.ofMag (a.sign != b.sign) 0 := by
  obtain ⟨hc, hr⟩ := (F64.div_nanOr a b).number h
  have ha : ¬ a.isInf = true := fun ha => hc (.inr (.inr (.inl ⟨ha, hb⟩)))
  have hz : ¬ b.isZero = true := fun hz => by simp [F64.not_inf_of_zero hz] at hb
  rw [hr, if_neg (by simp [ha, hz]), if_pos hb]

/-- Settles O58: each operation is the NaN of its operands or a number, and the number of an
infinite operand or a zero divisor is read off the operation's branches. -/
theorem specialValuesFollowIeee754 : Obligations.SpecialValuesFollowIeee754 := by
  intro a b sa sb nan inf zero quiet infinity signedZero
  have hnan (x : F64) : nan x ↔ x.isNaN = true := (F64.isNaN_iff x).symm
  have hinf (x : F64) : inf x ↔ x.isInf = true := (F64.isInf_iff x).symm
  have hzero (x : F64) : zero x ↔ x.isZero = true := (F64.isZero_iff x).symm
  have hinfinity (s : Bool) : infinity s = F64.ofMag s F64.infMag := (F64.ofMag_infMag s).symm
  have hsigned (s : Bool) : signedZero s = F64.ofMag s 0 := (F64.ofMag_zero s).symm
  simp only [quiet, hnan, hinf, hzero, hinfinity, hsigned]
  exact ⟨⟨(F64.add_nanOr a b).quiet, (F64.sub_nanOr a b).quiet, (F64.mul_nanOr a b).quiet,
      (F64.div_nanOr a b).quiet⟩,
    (F64.add_nanOr a b).isNaN_iff, (F64.sub_nanOr a b).isNaN_iff, (F64.mul_nanOr a b).isNaN_iff,
    (F64.div_nanOr a b).isNaN_iff, F64.add_of_inf, F64.sub_of_inf, F64.mul_of_inf,
    fun h => ⟨F64.div_eq_inf h, F64.div_eq_zero h⟩⟩

end Sys2Proof
end

section
/-! O60 and O6: the comparisons, the absolute value, and a step at the command port. -/

namespace Sys2Proof

/-! ## Comparisons -/

/-- The order of the patterns is that of the counts of units. -/
theorem F64.key_lt_key_iff (a b : F64) : a.key < b.key ↔ a.toInt < b.toInt := by
  have hlt := F64.unitsOf_strictMono.lt_iff_lt (a := a.mag) (b := b.mag)
  have hgt := F64.unitsOf_strictMono.lt_iff_lt (a := b.mag) (b := a.mag)
  have ha := F64.unitsOf_eq_zero_iff (m := a.mag)
  have hb := F64.unitsOf_eq_zero_iff (m := b.mag)
  unfold F64.key F64.toInt
  rw [F64.units_eq_unitsOf, F64.units_eq_unitsOf]
  split <;> split <;> omega

theorem F64.value_lt_value_iff (a b : F64) : a.value < b.value ↔ a.toInt < b.toInt := by
  rw [F64.value_eq, F64.value_eq, div_lt_div_iff_of_pos_right F64.scale_pos, Int.cast_lt]

theorem F64.lt_eq_of_numbers {a b : F64} (ha : a.isNaN = false) (hb : b.isNaN = false) :
    F64.lt a b = decide (a.key < b.key) := by simp [F64.lt, ha, hb]

theorem F64.le_eq_not_lt {a b : F64} (ha : a.isNaN = false) (hb : b.isNaN = false) :
    F64.le a b = !F64.lt b a := by
  rw [F64.lt_eq_of_numbers hb ha, ← decide_not, F64.le, ha, hb]
  simp only [not_lt, Bool.not_false, Bool.true_and]

theorem F64.lt_of_nan {a b : F64} (h : a.isNaN = true ∨ b.isNaN = true) : F64.lt a b = false := by
  rcases h with h | h <;> simp [F64.lt, h]

theorem F64.le_of_nan {a b : F64} (h : a.isNaN = true ∨ b.isNaN = true) : F64.le a b = false := by
  rcases h with h | h <;> simp [F64.le, h]

theorem F64.lt_iff_value_lt {a b : F64} (ha : a.isFinite = true) (hb : b.isFinite = true) :
    F64.lt a b = true ↔ a.value < b.value := by
  rw [F64.lt_eq_of_numbers (F64.not_nan_of_finite ha) (F64.not_nan_of_finite hb),
    decide_eq_true_iff, F64.key_lt_key_iff, F64.value_lt_value_iff]

theorem F64.le_iff_value_le {a b : F64} (ha : a.isFinite = true) (hb : b.isFinite = true) :
    F64.le a b = true ↔ a.value ≤ b.value := by
  rw [F64.le_eq_not_lt (F64.not_nan_of_finite ha) (F64.not_nan_of_finite hb), Bool.not_eq_true',
    ← Bool.not_eq_true, F64.lt_iff_value_lt hb ha, not_lt]

/-- A pattern is determined by its sign and its magnitude. -/
theorem F64.eq_ofMag_iff (x : F64) (neg : Bool) {m : Nat} (hm : m < 2 ^ 63) :
    x = F64.ofMag neg m ↔ x.sign = neg ∧ x.mag = m := by
  constructor
  · rintro rfl
    exact ⟨F64.sign_ofMag neg hm, F64.mag_ofMag neg hm⟩
  · rintro ⟨rfl, rfl⟩
    exact (F64.ofMag_sign_mag x).symm

theorem F64.lt_posInf_iff {a : F64} (ha : a.isNaN = false) :
    F64.lt a ⟨0x7FF0000000000000#64⟩ = true ↔ a ≠ ⟨0x7FF0000000000000#64⟩ := by
  have hpos : (⟨0x7FF0000000000000#64⟩ : F64) = F64.ofMag false F64.infMag := by decide
  have hkey : (F64.ofMag false F64.infMag).key = F64.infMag := by decide
  rw [hpos, F64.lt_eq_of_numbers ha (by decide), decide_eq_true_iff, hkey, Ne,
    F64.eq_ofMag_iff a false (by decide)]
  rw [F64.isNaN_eq_false_iff] at ha
  have hinf : 0 < F64.infMag := by decide
  unfold F64.key
  cases a.sign <;> simp <;> omega

theorem F64.negInf_lt_iff {a : F64} (ha : a.isNaN = false) :
    F64.lt ⟨0xFFF0000000000000#64⟩ a = true ↔ a ≠ ⟨0xFFF0000000000000#64⟩ := by
  have hneg : (⟨0xFFF0000000000000#64⟩ : F64) = F64.ofMag true F64.infMag := by decide
  have hkey : (F64.ofMag true F64.infMag).key = -F64.infMag := by decide
  rw [hneg, F64.lt_eq_of_numbers (by decide) ha, decide_eq_true_iff, hkey, Ne,
    F64.eq_ofMag_iff a true (by decide)]
  rw [F64.isNaN_eq_false_iff] at ha
  have hinf : 0 < F64.infMag := by decide
  unfold F64.key
  cases a.sign <;> simp <;> omega

/-! ## The absolute value -/

theorem F64.getLsbD_abs (x : F64) (i : Nat) :
    x.abs.bits.getLsbD i = (x.bits.getLsbD i && decide (i < 63)) := by
  rw [F64.abs, BitVec.getLsbD_and,
    show 0x7FFFFFFFFFFFFFFF#64 = (BitVec.allOnes 63).setWidth 64 by decide,
    BitVec.getLsbD_setWidth, BitVec.getLsbD_allOnes]
  by_cases hi : i < 63
  · simp [hi, show i < 64 by omega]
  · simp [hi]

theorem F64.abs_low_bits (x : F64) : x.abs.bits.extractLsb' 0 63 = x.bits.extractLsb' 0 63 := by
  refine BitVec.eq_of_getLsbD_eq fun i hi => ?_
  rw [BitVec.getLsbD_extractLsb', BitVec.getLsbD_extractLsb', F64.getLsbD_abs]
  simp [hi]

/-! ## The gain control -/

/-- With a NaN gain and a NaN peak no comparison of R213 holds, so the last branch is taken. -/
theorem Machine.agcUpdate_nan (D : Derived F64) {g : Machine.AgcRegs F64} (hg : g.gain.isNaN = true)
    (hp : g.peak.isNaN = true) :
    Machine.agcUpdate Machine.f64 Machine.documentConsts D g = ⟨g.gain, g.peak, .present⟩ := by
  unfold Machine.agcUpdate
  have h1 : Machine.f64.le Machine.documentConsts.pilotMaxGain g.gain = false :=
    F64.le_of_nan (.inr hg)
  have h2 : Machine.f64.lt g.peak Machine.documentConsts.stableLo = false := F64.lt_of_nan (.inl hp)
  have h3 : Machine.f64.lt Machine.documentConsts.stableHi g.peak = false := F64.lt_of_nan (.inr hp)
  simp [h1, h2, h3]

/-- Settles O60: magnitudes are ordered as the units they count. -/
theorem nanComparesFalse : Obligations.NanComparesFalse :=
  ⟨fun _ _ h => ⟨F64.lt_of_nan h, F64.le_of_nan h⟩,
    F64.isNaN_iff,
    fun _ _ ha hb => ⟨F64.lt_iff_value_lt ((F64.isFinite_iff _).2 ha) ((F64.isFinite_iff _).2 hb),
      F64.le_iff_value_le ((F64.isFinite_iff _).2 ha) ((F64.isFinite_iff _).2 hb)⟩,
    fun _ _ => F64.le_eq_not_lt,
    fun _ ha => ⟨F64.lt_posInf_iff ha, F64.negInf_lt_iff ha⟩,
    fun a => ⟨by rw [F64.getLsbD_abs]; simp, F64.abs_low_bits a⟩,
    fun D _ => Machine.agcUpdate_nan D⟩

/-- Settles O6: a decoded command takes the instruction arm of the transaction. -/
theorem stepRunsTheDecodedCommand : Obligations.StepRunsTheDecodedCommand := by
  intro s c rest i hp hd
  have htransact : Machine.transact s = Machine.runCommand c (s.taken rest) := by
    rw [Machine.transact, hp]
  have hrun : Machine.runCommand c (s.taken rest) = Machine.exec i (s.taken rest) := by
    rw [Machine.runCommand, hd]
  exact htransact.trans hrun

end Sys2Proof
end

section
/-! O59: the square root. -/

namespace Sys2Proof

/-! ## The integer root -/

/-- The bits still to be found make up the rest of the root. -/
theorem F64.isqrtFrom_eq_sqrt {n k s : Nat} (hlo : s * s ≤ n)
    (hhi : n < (s + 2 ^ k) * (s + 2 ^ k)) :
    F64.isqrtFrom n k s = Nat.sqrt n := by
  induction k generalizing s with
  | zero => exact Nat.eq_sqrt.2 ⟨hlo, hhi⟩
  | succ k ih =>
    unfold F64.isqrtFrom
    split
    next h =>
      refine ih h ?_
      rwa [add_assoc, ← two_mul, ← pow_succ']
    next h => exact ih hlo (not_le.1 h)

/-! ## Rounding what is known only between two multiples of a last place -/

/-- A midpoint has at most 54 bits, so past `s` of these last places it is a multiple of one. -/
theorem F64.midSum_ge_of_gt {s j m : Nat} (hs : 2 ^ 54 ≤ s) (h : s * 2 ^ j < F64.midSum m) :
    (s + 1) * 2 ^ j ≤ F64.midSum m := by
  obtain ⟨k, q, rfl, hlo, hhi, hk⟩ := F64.exists_binade m
  have hmid : F64.midSum (k * 2 ^ 52 + q) = (2 * q + 1) * 2 ^ k := by
    rw [F64.midSum, F64.unitsOf_succ, ← hk, F64.unitsOf_binade hlo hhi.le]
    ring
  rw [hmid] at h ⊢
  have hjk : j < k := by
    by_contra hkj
    have hpow : 2 ^ k ≤ 2 ^ j := Nat.pow_le_pow_right two_pos (not_lt.1 hkj)
    exact absurd h (not_lt.2 (Nat.mul_le_mul (by omega) hpow))
  obtain ⟨d, rfl⟩ := Nat.exists_eq_add_of_lt hjk
  rw [show j + d + 1 = d + 1 + j by omega, pow_add, ← mul_assoc] at h ⊢
  exact Nat.mul_le_mul_right _ (Nat.lt_of_mul_lt_mul_right h)

/-- All values strictly between two neighbouring multiples of a last place round alike. -/
theorem F64.roundsAbove_iff_of_between {v : ℝ} {s t m : Nat} (hs : 2 ^ 54 ≤ s)
    (hlo : (s : ℝ) * 2 ^ t < v) (hhi : v < ((s : ℝ) + 1) * 2 ^ t) :
    F64.RoundsAbove v m ↔ F64.midSum m ≤ s * 2 ^ (t + 1) := by
  constructor
  · intro habove
    by_contra hgt
    have hge : ((s : ℝ) + 1) * 2 ^ (t + 1) ≤ F64.midSum m := by
      exact_mod_cast F64.midSum_ge_of_gt hs (not_le.1 hgt)
    rw [pow_succ] at hge
    rcases habove with h | ⟨h, -⟩ <;> linarith
  · intro hle
    have hle' : (F64.midSum m : ℝ) ≤ s * 2 ^ (t + 1) := by exact_mod_cast hle
    rw [pow_succ] at hle'
    exact .inl (by linarith)

/-- Past 55 bits of the root the rounding needs to know only whether anything is left over. -/
theorem F64.IsRounding.sqrt_of_sticky {n t r : Nat} (hs : 2 ^ 54 ≤ Nat.sqrt n)
    (h : F64.IsRounding (((2 * Nat.sqrt n + if Nat.sqrt n * Nat.sqrt n = n then 0 else 1 : ℕ) : ℝ) *
      2 ^ t / 2) r) :
    F64.IsRounding (√n * 2 ^ t) r := by
  have hpow : (0 : ℝ) < 2 ^ t := pow_pos two_pos _
  split at h
  next hsq =>
    have hroot : √(n : ℝ) = Nat.sqrt n := by
      conv_lhs => rw [← hsq]
      rw [Nat.cast_mul, Real.sqrt_mul_self (Nat.cast_nonneg _)]
    rw [hroot]
    convert h using 1
    push_cast
    ring
  next hsq =>
    have hlo : (Nat.sqrt n : ℝ) < √n := by
      rw [Real.lt_sqrt (Nat.cast_nonneg _), sq]
      exact_mod_cast lt_of_le_of_ne (Nat.sqrt_le n) hsq
    have hhi : √(n : ℝ) < Nat.sqrt n + 1 := by
      rw [Real.sqrt_lt' (by positivity), sq]
      exact_mod_cast Nat.lt_succ_sqrt n
    refine ⟨h.1, fun m hm => (h.2 m hm).trans ?_⟩
    rw [F64.roundsAbove_iff_of_between hs (mul_lt_mul_of_pos_right hlo hpow)
      (mul_lt_mul_of_pos_right hhi hpow)]
    refine F64.roundsAbove_iff_of_between hs ?_ ?_ <;> push_cast <;> linarith

/-- The root of a positive finite value is the exact root rounded once. -/
theorem F64.isRounding_sqrtMag {x : F64} (hz : x.isZero = false) :
    F64.IsRounding (√((x.units : ℝ) * F64.unitsPerOne)) x.sqrtMag := by
  obtain ⟨k, q, hmag, hlo, hhi, hk⟩ := F64.exists_binade x.mag
  have hunits : x.units = q * 2 ^ k := by
    rw [F64.units_eq_unitsOf, hmag, F64.unitsOf_binade hlo hhi.le]
  have hq : 0 < q := by
    rw [F64.isZero, decide_eq_false_iff_not] at hz
    omega
  unfold F64.sqrtMag
  extract_lets e m p n s sticky
  obtain rfl : k = e := hk
  have hm : m = q := by
    rw [show m = x.units / 2 ^ e from rfl, hunits, Nat.mul_div_cancel _ (Nat.two_pow_pos e)]
  have hnlo : 2 ^ 54 * 2 ^ 54 ≤ n := by
    calc 2 ^ 54 * 2 ^ 54 = 1 * 2 ^ 108 := by norm_num
      _ ≤ m * 2 ^ p := hm ▸ Nat.mul_le_mul hq (Nat.pow_le_pow_right two_pos (by omega))
  have hnhi : n < (0 + 2 ^ 82) * (0 + 2 ^ 82) := by
    calc n < 2 ^ 53 * 2 ^ p := Nat.mul_lt_mul_of_pos_right (hm ▸ hhi) (Nat.two_pow_pos p)
      _ ≤ 2 ^ 53 * 2 ^ 109 := Nat.mul_le_mul_left _ (Nat.pow_le_pow_right two_pos (by omega))
      _ ≤ (0 + 2 ^ 82) * (0 + 2 ^ 82) := by norm_num
  have hs : s = Nat.sqrt n := F64.isqrtFrom_eq_sqrt (by simp) hnhi
  obtain ⟨t, ht⟩ : ∃ t, e + 1074 = p + 2 * t := ⟨(e + 1074 - p) / 2, by omega⟩
  have hnq : (n : ℝ) = q * 2 ^ p := by
    rw [← hm, show n = m * 2 ^ p from rfl, Nat.cast_mul, Nat.cast_pow, Nat.cast_ofNat]
  have hroot : √(((q * 2 ^ e : ℕ) : ℝ) * F64.unitsPerOne) = √n * 2 ^ t := by
    rw [F64.cast_unitsPerOne, Nat.cast_mul, Nat.cast_pow, Nat.cast_ofNat, mul_assoc, ← pow_add, ht,
      pow_add, pow_mul', ← mul_assoc, Real.sqrt_mul (by positivity),
      Real.sqrt_sq (pow_nonneg two_pos.le _), hnq]
  rw [hunits, hroot, show (e + 1074 - p) / 2 = t by omega]
  refine F64.IsRounding.sqrt_of_sticky (Nat.le_sqrt.2 hnlo) ?_
  have hround := F64.isRounding_roundMag ((2 * s + sticky) * 2 ^ t) two_pos
  rw [Nat.cast_mul, Nat.cast_pow, Nat.cast_ofNat] at hround
  simpa only [sticky, hs] using hround

/-- The exact root lies far below the overflow threshold. -/
theorem F64.sqrtMag_lt_infMag {x : F64} (hfin : x.isFinite = true) (hz : x.isZero = false) :
    x.sqrtMag < F64.infMag := by
  have hround := F64.isRounding_sqrtMag hz
  refine lt_of_le_of_ne hround.1 (hround.eq_inf_iff.not.2 (not_le.2 ?_))
  have hunits : x.units < 2 ^ 2098 := by
    rw [F64.isFinite, decide_eq_true_iff] at hfin
    have hinf : F64.unitsOf F64.infMag = 2 ^ 2098 := by
      rw [show F64.infMag = 2046 * 2 ^ 52 + 2 ^ 52 by decide,
        F64.unitsOf_binade (fun _ => le_rfl) (by norm_num), ← pow_add]
    rw [F64.units_eq_unitsOf, ← hinf]
    exact F64.unitsOf_strictMono hfin
  have hroot : √((x.units : ℝ) * F64.unitsPerOne) < 2 ^ 1586 := by
    rw [Real.sqrt_lt' (pow_pos two_pos _), F64.cast_unitsPerOne, ← pow_mul,
      show 1586 * 2 = 2098 + 1074 from rfl, pow_add]
    exact mul_lt_mul_of_pos_right (by exact_mod_cast hunits) F64.scale_pos
  have hpow : (2 : ℝ) ^ 1586 ≤ 2 ^ 2045 := pow_le_pow_right₀ one_le_two (by norm_num)
  rw [Nat.cast_mul, Nat.cast_pow, Nat.cast_ofNat]
  calc 2 * √((x.units : ℝ) * F64.unitsPerOne) < 2 * 2 ^ 1586 :=
        mul_lt_mul_of_pos_left hroot two_pos
    _ ≤ 2 * 2 ^ 2045 := mul_le_mul_of_nonneg_left hpow two_pos.le
    _ ≤ _ := mul_le_mul_of_nonneg_right (by norm_num) (pow_nonneg two_pos.le _)

/-! ## The operation -/

theorem F64.sqrt_of_pos {x : F64} (hfin : x.isFinite = true) (hs : x.sign = false)
    (hz : x.isZero = false) : F64.sqrt x = F64.ofMag false x.sqrtMag := by
  unfold F64.sqrt
  simp [F64.not_nan_of_finite hfin, hz, hs, F64.not_inf_of_finite hfin]

theorem F64.sqrt_of_zero {x : F64} (hnan : x.isNaN = false) (hz : x.isZero = true) :
    F64.sqrt x = x := by
  unfold F64.sqrt
  simp [hnan, hz]

theorem F64.sqrt_posInf : F64.sqrt (F64.ofMag false F64.infMag) = F64.ofMag false F64.infMag := by
  unfold F64.sqrt
  rw [if_neg (by decide), if_neg (by decide), if_neg (by decide), if_pos (by decide)]

theorem F64.sqrt_eq_nanResult {x : F64} (h : x.isNaN = true ∨ (x.sign = true ∧ x.isZero = false)) :
    F64.sqrt x = F64.nanResult .sqrt x x := by
  unfold F64.sqrt
  by_cases hnan : x.isNaN = true
  · rw [if_pos hnan]
  · obtain ⟨hs, hz⟩ := h.resolve_left hnan
    simp [hnan, hs, hz]

/-- The root in units is the root of the value. -/
theorem F64.sqrt_value_mul_scale {x : F64} (hs : x.sign = false) :
    √x.value * 2 ^ 1074 = √((x.units : ℝ) * F64.unitsPerOne) := by
  have hunits : (x.units : ℝ) = x.value * 2 ^ 1074 := by
    rw [F64.value_mul_unitsPerOne, hs, F64.units_eq_unitsOf]
    simp [F64.signFactor]
  rw [hunits, F64.cast_unitsPerOne, mul_assoc, Real.sqrt_mul' _ (mul_self_nonneg _),
    Real.sqrt_mul_self F64.scale_pos.le]

/-- Settles O59: the bits of the root that are taken, with one more for what is left over, lie on
the same side of every midpoint as the exact root. -/
theorem squareRootIsTheNearest : Obligations.SquareRootIsTheNearest := by
  refine ⟨fun x hfin hs hz => ?_, F64.sqrt_of_zero (by decide) (by decide),
    F64.sqrt_of_zero (by decide) (by decide), ?_, fun x hx => ?_⟩
  · have hround := F64.isRounding_sqrtMag hz
    have hlt := F64.sqrtMag_lt_infMag hfin hz
    have h63 := hlt.trans (show F64.infMag < 2 ^ 63 by decide)
    rw [F64.sqrt_of_pos hfin hs hz]
    refine ⟨?_, F64.sign_ofMag false h63, fun m hm => ?_, ?_⟩
    · rw [F64.isFinite, F64.mag_ofMag false h63]
      exact decide_eq_true hlt
    · rw [F64.units_ofMag false h63, F64.units_ofMag false (hm.trans (by decide))]
      exact (hround.nearest hlt m).1
    · have habs := abs_of_nonneg (Real.sqrt_nonneg x.value)
      refine F64.IsRounding.roundsTo ?_ (by rw [habs]; simp [F64.signFactor])
      rwa [habs, F64.sqrt_value_mul_scale hs]
  · have h := F64.sqrt_posInf
    rwa [F64.ofMag_infMag] at h
  · have hnan : x.isNaN = true ∨ (x.sign = true ∧ x.isZero = false) := by
      refine hx.imp (F64.isNaN_iff x).2 fun ⟨hs, hne⟩ => ⟨hs, ?_⟩
      rw [F64.isZero, decide_eq_false_iff_not]
      intro hz
      have := (F64.eq_ofMag_iff x true (by decide)).2 ⟨hs, hz⟩
      rw [F64.ofMag_zero] at this
      exact hne this
    rw [F64.sqrt_eq_nanResult hnan]
    obtain ⟨hexp, -⟩ := (F64.isNaN_iff _).1 (F64.isNaN_nanResult .sqrt x x)
    exact ⟨hexp, F64.quiet_nanResult .sqrt x x⟩

end Sys2Proof
end

section
/-! SUPPORT for the statements of the family 10_state.  A ring element is reached through its index
modulo the length: what a read gives after a write to the same and to another element, and from there
what a ring holds after a push. -/

namespace Sys2Proof.Machine

section Primitives
variable {F : Type} [DecidableEq F] (A : Arith F)

/-! ## The ring primitives over integer indices (R61) -/

/-- The index an integer reaches in a ring of positive length, as an integer. -/
theorem natCast_toNat_emod {n : Nat} (hn : 0 < n) (i : Int) : ((i % n).toNat : Int) = i % n :=
  Int.toNat_of_nonneg (Int.emod_nonneg i (Int.ofNat_ne_zero.mpr hn.ne'))

omit [DecidableEq F] in
theorem memRead_congr {n : Nat} {i j : Int} (m : Memory F) (h : i % n = j % n) :
    memRead A n m i = memRead A n m j := by
  rw [memRead, memRead, h]

theorem memRead_memWrite_same {n : Nat} {i j : Int} (v : F) {m : Memory F}
    (hm : Memory.wf A n m = true) (h : j % n = i % n) :
    memRead A n (memWrite A n m i v) j = v := by
  rw [memRead, memWrite, h]
  exact Memory.read_write_same A v hm

theorem memRead_memWrite_other {n : Nat} (hn : 0 < n) {i j : Int} (v : F) (m : Memory F)
    (h : j % n ≠ i % n) : memRead A n (memWrite A n m i v) j = memRead A n m j := by
  refine Memory.read_write_other A (fun heq => h ?_) v m
  rw [← natCast_toNat_emod hn i, ← natCast_toNat_emod hn j, heq]

/-! ## A push (R62) -/

/-- Counted back from the write index after a push, an element is one place further than from the
write index before it. -/
theorem ringPush_index_sub_emod (n : Nat) (r : Ring F) (v : F) (j : Int) :
    (((ringPush A n r v).w : Int) - 1 - j) % n = (r.w - j) % n := by
  rw [(ringPush_spec A n r v).2, Int.natCast_emod, sub_sub, Int.emod_sub_emod]
  congr 1
  push_cast
  ring

/-- The newest element of a ring is the one just pushed. -/
theorem memRead_ringPush_newest {n : Nat} {r : Ring F} (v : F) (hr : Memory.wf A n r.mem = true) :
    memRead A n (ringPush A n r v).mem (((ringPush A n r v).w : Int) - 1) = v := by
  have hindex := ringPush_index_sub_emod A n r v 0
  rw [sub_zero, sub_zero] at hindex
  rw [(ringPush_spec A n r v).1]
  exact memRead_memWrite_same A v hr hindex

/-- Up to a whole ring back, a push leaves every element where it is: one place further back. -/
theorem memRead_ringPush_older {n k : Nat} {r : Ring F} (v : F) (hk : k + 1 < n) :
    memRead A n (ringPush A n r v).mem (((ringPush A n r v).w : Int) - 1 - (k + 1)) =
      memRead A n r.mem ((r.w : Int) - 1 - k) := by
  have hindex := ringPush_index_sub_emod A n r v (k + 1)
  have hback : (r.w : Int) - (k + 1) = r.w - 1 - k := by ring
  have hother : ((r.w : Int) - (k + 1)) % n ≠ r.w % n := by
    intro heq
    have hdvd : (n : Int) ∣ k + 1 := by
      simpa using Int.ModEq.dvd heq
    have := Int.le_of_dvd (by omega) hdvd
    omega
  rw [(ringPush_spec A n r v).1, memRead_memWrite_other A (by omega) v r.mem (hindex ▸ hother),
    memRead_congr A r.mem (hindex.trans (congrArg (· % (n : Int)) hback))]

end Primitives

/-- A push keeps a ring legal. -/
theorem Ring.legal_ringPush {n : Nat} {r : Ring F64} (h : Ring.legal n r) (v : F64) :
    Ring.legal n (ringPush f64 n r v) := by
  obtain ⟨hwf, hw⟩ := h
  exact ringPush_keeps_form f64 (Nat.zero_lt_of_lt hw) r v hwf

/-- The reset ring is legal for every positive length. -/
theorem Ring.legal_reset {n : Nat} (hn : 0 < n) : Ring.legal n Ring.reset :=
  ⟨Ring.reset_wf f64 n, hn⟩

/-- Settles O35: a push writes the element at the old index, which is the newest one counted back
from the new index and none of the `n - 1` before it. -/
theorem ringKeepsTheLastSamples : Obligations.RingKeepsTheLastSamples := by
  rintro n r v ⟨hwf, hw⟩
  exact ⟨Ring.legal_ringPush ⟨hwf, hw⟩ v, (ringPush_spec f64 n r v).2,
    memRead_ringPush_newest f64 v hwf, fun _ hk => memRead_ringPush_older f64 v hk⟩

end Sys2Proof.Machine
end

section
/-! SUPPORT for the statements of the family 10_state.  The wrap of R188 lands in `(-PI, PI]`: a phase
of at least half a turn is a multiple of the last place of `PI`, as the turn is, so the exact remainder
is a pattern's and is not rounded. -/

namespace Sys2Proof

/-! ## Exact results -/

/-- A number of units that is a multiple of a last place, and has at most 53 bits counted in it, is not
changed by the shared rounding. -/
theorem F64.unitsOf_roundMag_of_dvd {n j : Nat} (hj : j ≤ 2045) (hdvd : 2 ^ j ∣ n)
    (hlt : n < 2 ^ (53 + j)) : F64.unitsOf (F64.roundMag n 1) = n := by
  obtain ⟨hlo, hhi⟩ := F64.roundMag_quotient_bounds n 1
  have hk : Nat.log2 (n / 1) - 52 ≤ j := by
    rw [Nat.div_one]
    rcases Nat.eq_zero_or_pos n with rfl | hpos
    · simp
    · have := (Nat.log2_lt hpos.ne').2 hlt
      omega
  unfold F64.roundMag
  generalize Nat.log2 (n / 1) - 52 = k at *
  obtain ⟨q, rfl⟩ := (pow_dvd_pow 2 hk).trans hdvd
  simp only [one_mul, Nat.mul_div_cancel_left q (Nat.two_pow_pos k)] at *
  have hfinite : k * 2 ^ 52 + q ≤ F64.infMag := by
    unfold F64.infMag
    omega
  simp only [Nat.mul_mod_right, mul_zero, Nat.not_lt_zero, decide_false, (Nat.two_pow_pos k).ne,
    Bool.false_and, Bool.or_false, Bool.false_eq_true, if_false]
  rw [min_eq_left hfinite, F64.unitsOf_binade hlo hhi.le, mul_comm]

theorem F64.mag_ofInt (v : Int) : (F64.ofInt v).mag = F64.roundMag v.natAbs 1 :=
  F64.mag_ofMag _ (F64.roundMag_lt _ _)

/-- An integer of units of at most 53 bits counted in some last place is the value of a pattern. -/
theorem F64.toInt_ofInt_of_dvd {v : Int} {j : Nat} (hj : j ≤ 2045) (hdvd : 2 ^ j ∣ v.natAbs)
    (hlt : v.natAbs < 2 ^ (53 + j)) : (F64.ofInt v).toInt = v := by
  have hsign : (F64.ofInt v).sign = decide (v < 0) := F64.sign_ofMag _ (F64.roundMag_lt _ _)
  rw [F64.toInt, hsign, F64.units_eq_unitsOf, F64.mag_ofInt,
    F64.unitsOf_roundMag_of_dvd hj hdvd hlt]
  split
  next h => have := of_decide_eq_true h; omega
  next h => have := of_decide_eq_false (eq_false_of_ne_true h); omega

theorem F64.unitsOf_infMag : F64.unitsOf F64.infMag = 2 ^ 2098 := by
  rw [show F64.infMag = 2046 * 2 ^ 52 + 2 ^ 52 by decide,
    F64.unitsOf_binade (fun _ => le_rfl) (by norm_num), ← pow_add]

theorem F64.isFinite_ofInt_of_dvd {v : Int} {j : Nat} (hj : j ≤ 2045) (hdvd : 2 ^ j ∣ v.natAbs)
    (hlt : v.natAbs < 2 ^ (53 + j)) : (F64.ofInt v).isFinite = true := by
  rw [F64.isFinite, F64.mag_ofInt, decide_eq_true_eq, ← F64.unitsOf_strictMono.lt_iff_lt,
    F64.unitsOf_roundMag_of_dvd hj hdvd hlt, F64.unitsOf_infMag]
  exact hlt.trans_le (pow_le_pow_right₀ one_le_two (Nat.add_le_add_left hj 53))

/-! ## `PI` and the phases beyond it -/

theorem F64.pi_toInt : F64.pi.toInt = (0x1921FB54442D18 : Nat) * 2 ^ 1023 := by decide +kernel

theorem F64.twoPi_toInt : F64.twoPi.toInt = 2 * F64.pi.toInt := by decide +kernel

theorem F64.pi_toInt_pos : 0 < F64.pi.toInt := by decide +kernel

theorem F64.natAbs_pi_toInt_lt : F64.pi.toInt.natAbs < 2 ^ (53 + 1023) := by decide +kernel

theorem F64.toInt_neg (x : F64) : x.neg.toInt = -x.toInt := by
  rw [F64.toInt, F64.toInt, F64.units_eq_unitsOf, F64.units_eq_unitsOf, F64.sign_neg, F64.mag_neg]
  cases x.sign <;> simp

theorem F64.natAbs_toInt (x : F64) : x.toInt.natAbs = F64.unitsOf x.mag := by
  rw [F64.toInt, F64.units_eq_unitsOf]
  split <;> omega

/-- A value of magnitude `PI` or more is a multiple of the last place of `PI`. -/
theorem F64.two_pow_dvd_toInt {x : F64} (h : F64.pi.toInt ≤ x.toInt.natAbs) :
    (2 ^ 1023 : Int) ∣ x.toInt := by
  have hpi : F64.pi.toInt = F64.unitsOf F64.pi.mag := by
    have := F64.natAbs_toInt F64.pi
    have := F64.pi_toInt_pos
    omega
  have hmag : F64.pi.mag ≤ x.mag := by
    rw [hpi, F64.natAbs_toInt, Nat.cast_le] at h
    exact F64.unitsOf_strictMono.le_iff_le.1 h
  obtain ⟨k, q, hm, hlo, hhi, hk⟩ := F64.exists_binade x.mag
  have hexp : 1023 ≤ k := by
    have : F64.pi.mag = 0x400921FB54442D18 := by decide
    omega
  rw [← Int.dvd_natAbs, F64.natAbs_toInt, hm, F64.unitsOf_binade hlo hhi.le]
  exact_mod_cast (pow_dvd_pow 2 hexp).mul_left q

/-- `(-PI, PI]` in units. -/
theorem F64.in_range_iff {x : F64} (hx : x.isFinite = true) :
    F64.lt F64.pi.neg x = true ∧ F64.le x F64.pi = true ↔
      -F64.pi.toInt < x.toInt ∧ x.toInt ≤ F64.pi.toInt := by
  have hnan := F64.not_nan_of_finite hx
  rw [F64.lt_eq_of_numbers (by decide) hnan, F64.le_eq_not_lt hnan (by decide),
    F64.lt_eq_of_numbers (by decide) hnan, decide_eq_true_iff, Bool.not_eq_true',
    decide_eq_false_iff_not, F64.key_lt_key_iff, F64.key_lt_key_iff, F64.toInt_neg, not_lt]

/-! ## The wrap (R188) -/

/-- The whole turns that the wrap takes off. -/
def F64.turns (t : F64) : Int := -((F64.pi.toInt - t.toInt) / F64.twoPi.toInt)

/-- Everything the wrap can do. -/
theorem F64.wrap_cases (t : F64) :
    (t.isNaN = true ∧ F64.wrap t = t) ∨
    (t.isInf = true ∧ F64.wrap t = F64.nanResult .wrap t t) ∨
    (t.isFinite = true ∧ t.turns = 0 ∧ F64.wrap t = t) ∨
    (t.isFinite = true ∧ t.turns ≠ 0 ∧
      F64.wrap t = F64.ofInt (t.toInt - t.turns * F64.twoPi.toInt)) := by
  unfold F64.wrap F64.turns
  by_cases hnan : t.isNaN = true
  · exact .inl ⟨hnan, if_pos hnan⟩
  rw [if_neg hnan]
  by_cases hinf : t.isInf = true
  · exact .inr (.inl ⟨hinf, if_pos hinf⟩)
  rw [if_neg hinf]
  have hfin : t.isFinite = true := by
    simp only [F64.isNaN, F64.isInf, F64.isFinite, decide_eq_true_eq] at *
    omega
  by_cases hturns : -((F64.pi.toInt - t.toInt) / F64.twoPi.toInt) = 0
  · exact .inr (.inr (.inl ⟨hfin, hturns, if_pos hturns⟩))
  · exact .inr (.inr (.inr ⟨hfin, hturns, if_neg hturns⟩))

/-- What is left of a phase without its whole turns lies in `(-PI, PI]`. -/
theorem F64.remainder_range (t : F64) :
    -F64.pi.toInt < t.toInt - t.turns * F64.twoPi.toInt ∧
      t.toInt - t.turns * F64.twoPi.toInt ≤ F64.pi.toInt := by
  have hpos : 0 < F64.twoPi.toInt := by
    have := F64.pi_toInt_pos
    rw [F64.twoPi_toInt]
    omega
  have hrest : t.toInt - t.turns * F64.twoPi.toInt =
      F64.pi.toInt - (F64.pi.toInt - t.toInt) % F64.twoPi.toInt := by
    rw [F64.turns, Int.emod_def]
    ring
  have hnonneg := Int.emod_nonneg (F64.pi.toInt - t.toInt) hpos.ne'
  have hlt := Int.emod_lt_of_pos (F64.pi.toInt - t.toInt) hpos
  rw [hrest]
  have := F64.twoPi_toInt
  omega

/-- A phase with a whole turn to take off has a magnitude of `PI` or more. -/
theorem F64.pi_le_of_turns_ne_zero {t : F64} (h : t.turns ≠ 0) :
    F64.pi.toInt ≤ t.toInt.natAbs := by
  by_contra hlt
  refine h ?_
  rw [F64.turns, Int.ediv_eq_zero_of_lt, neg_zero]
  · omega
  · rw [F64.twoPi_toInt]
    omega

/-- The wrap of a finite phase is what is left of it without its whole turns, exactly. -/
theorem F64.toInt_wrap {t : F64} (h : t.isFinite = true) :
    (F64.wrap t).isFinite = true ∧
      (F64.wrap t).toInt = t.toInt - t.turns * F64.twoPi.toInt := by
  rcases F64.wrap_cases t with ⟨hnan, -⟩ | ⟨hinf, -⟩ | ⟨-, hturns, heq⟩ | ⟨-, hturns, heq⟩
  · simp [F64.not_nan_of_finite h] at hnan
  · simp [F64.not_inf_of_finite h] at hinf
  · rw [heq, hturns, zero_mul, sub_zero]
    exact ⟨h, rfl⟩
  · obtain ⟨hlo, hhi⟩ := F64.remainder_range t
    have hdvd : (2 ^ 1023 : Int) ∣ t.toInt - t.turns * F64.twoPi.toInt := by
      refine dvd_sub (F64.two_pow_dvd_toInt (F64.pi_le_of_turns_ne_zero hturns)) ?_
      rw [F64.twoPi_toInt, F64.pi_toInt]
      exact (((dvd_refl _).mul_left _).mul_left _).mul_left _
    have hdvd' : 2 ^ 1023 ∣ (t.toInt - t.turns * F64.twoPi.toInt).natAbs := by
      rw [← Int.natCast_dvd_natCast, Int.dvd_natAbs]
      exact_mod_cast hdvd
    have hle : (t.toInt - t.turns * F64.twoPi.toInt).natAbs ≤ F64.pi.toInt.natAbs := by omega
    have hlt := hle.trans_lt F64.natAbs_pi_toInt_lt
    rw [heq]
    exact ⟨F64.isFinite_ofInt_of_dvd (by norm_num) hdvd' hlt,
      F64.toInt_ofInt_of_dvd (by norm_num) hdvd' hlt⟩

/-- The wrap of any value is a NaN or in `(-PI, PI]`. -/
theorem F64.wrap_in_range (t : F64) :
    (F64.wrap t).isNaN = true ∨
      (F64.lt F64.pi.neg (F64.wrap t) = true ∧ F64.le (F64.wrap t) F64.pi = true) := by
  rcases F64.wrap_cases t with ⟨hnan, heq⟩ | ⟨-, heq⟩ | ⟨hfin, -⟩ | ⟨hfin, -⟩
  · rw [heq]
    exact .inl hnan
  · rw [heq]
    exact .inl (F64.isNaN_nanResult .wrap t t)
  all_goals
    obtain ⟨hfinite, hint⟩ := F64.toInt_wrap hfin
    rw [F64.in_range_iff hfinite, hint]
    exact .inr (F64.remainder_range t)

end Sys2Proof
end

section
/-! SUPPORT for the statements of the family 10_state.  What the operations of a frame do to the
datapath, in the order of a WFM frame: discriminator, decoder, de-emphasis (spec/47_facade_commands.md
R258). -/

namespace Sys2Proof.Machine

section Frames
variable {F : Type} [DecidableEq F] (A : Arith F) (P : Params F) (E : Setup F) (d : Datapath F)

/-- The differentiator treats the phase history as a ring (R145, R62). -/
theorem fmdStep_ph (i q : F) :
    (fmdStep A P E d i q).1.ph =
      ringPush A E.derived.difflen.toNat d.ph (phasorStep A P.num d.fmd i q).phase := rfl

/-- The ring takes one sample or none. -/
def Ring.PushedAtMostOnce (n : Nat) (r r' : Ring F) : Prop := r' = r ∨ ∃ x, r' = ringPush A n r x

theorem mpxLowpass_rings (l r : F) :
    Ring.PushedAtMostOnce A P.lpfM d.llh (mpxLowpass A P E d l r).1.llh ∧
      Ring.PushedAtMostOnce A P.lpfM d.lrh (mpxLowpass A P E d l r).1.lrh := by
  unfold mpxLowpass
  split
  · exact ⟨.inr ⟨l, rfl⟩, .inr ⟨r, rfl⟩⟩
  · exact ⟨.inl rfl, .inl rfl⟩

theorem mpxStereo_nco (mono p : F) :
    (mpxStereo A P E d mono p).1.nco = (ncoSync A P E.fs d.nco d.ppd p).1 := by
  rw [mpxStereo, mpxLowpass_frame]

theorem mpxStep_lowpass_rings (x : F) :
    Ring.PushedAtMostOnce A P.lpfM d.llh (mpxStep A P E d x).1.llh ∧
      Ring.PushedAtMostOnce A P.lpfM d.lrh (mpxStep A P E d x).1.lrh := by
  simp only [mpxStep]
  split
  · exact mpxLowpass_rings A P E _ _ _
  · exact ⟨.inl rfl, .inl rfl⟩

/-- A frame leaves the oscillator alone or runs the loop once (R195). -/
theorem mpxStep_nco (x : F) :
    (mpxStep A P E d x).1.nco = d.nco ∨
      ∃ p, (mpxStep A P E d x).1.nco = (ncoSync A P E.fs d.nco d.ppd p).1 := by
  simp only [mpxStep]
  split
  · exact .inr ⟨_, mpxStereo_nco A P E _ _ _⟩
  · exact .inl rfl

/-- De-emphasis comes last and touches its own registers only (R178). -/
theorem wfmFrame_frame (i q : F) :
    (wfmFrame A P E d i q).1 =
      { (mpxStep A P E (fmdStep A P E d i q).1 (fmdStep A P E d i q).2).1 with
        dee := (wfmFrame A P E d i q).1.dee } := by
  simp only [wfmFrame]
  split <;> rfl

/-- Which rings a WFM frame feeds, and how often. -/
theorem wfmFrame_rings (i q : F) :
    let x := (fmdStep A P E d i q).2
    let d' := (wfmFrame A P E d i q).1
    d'.ph = (fmdStep A P E d i q).1.ph ∧
      d'.dl = ringPush A P.mpxL d.dl x ∧ d'.pbh = ringPush A P.mpxL d.pbh x ∧
      d'.sbh = ringPush A P.mpxL d.sbh x ∧ Ring.PushedAtMostOnce A P.lpfM d.llh d'.llh ∧
      Ring.PushedAtMostOnce A P.lpfM d.lrh d'.lrh := by
  intro x d'
  obtain ⟨hllh, hlrh⟩ := mpxStep_lowpass_rings A P E (fmdStep A P E d i q).1 x
  have hmpx := mpxStep_frame A P E (fmdStep A P E d i q).1 x
  rw [show d' = _ from wfmFrame_frame A P E d i q]
  exact ⟨(congrArg Datapath.ph hmpx :), (congrArg Datapath.dl hmpx :),
    (congrArg Datapath.pbh hmpx :), (congrArg Datapath.sbh hmpx :), hllh, hlrh⟩

theorem wfmFrame_nco (i q : F) :
    (wfmFrame A P E d i q).1.nco = d.nco ∨
      ∃ p, (wfmFrame A P E d i q).1.nco = (ncoSync A P E.fs d.nco d.ppd p).1 := by
  rw [wfmFrame_frame]
  exact mpxStep_nco A P E (fmdStep A P E d i q).1 (fmdStep A P E d i q).2

omit [DecidableEq F] in
theorem ncoSync_fcenter (fs : Word32) (n : NcoRegs F) (r : PpdRegs F) (p : F) :
    (ncoSync A P fs n r p).1.fcenter = n.fcenter := rfl

omit [DecidableEq F] in
theorem ncoSync_theta (fs : Word32) (n : NcoRegs F) (r : PpdRegs F) (p : F) :
    (ncoSync A P fs n r p).1.theta = A.wrap (A.add n.theta (ncoStepAngle A fs n)) := rfl

end Frames

theorem Ring.PushedAtMostOnce.legal {n : Nat} {r r' : Ring F64}
    (h : Ring.PushedAtMostOnce f64 n r r') (hr : Ring.legal n r) : Ring.legal n r' := by
  rcases h with rfl | ⟨x, rfl⟩
  · exact hr
  · exact Ring.legal_ringPush hr x

end Sys2Proof.Machine
end

section
/-! SUPPORT for the statements of the family 10_state.  Everything a step can do to the state of the
block (R20), the ports left out: the relation `BlockStep`, which every command, the `rst` pin and a
step with nothing presented meet. -/

namespace Sys2Proof.Machine

theorem ModulationType.ofOrdinal_eq_some_iff (n : BitVec 4) (m : ModulationType) :
    ModulationType.ofOrdinal n = some m ↔ n = m.ordinal := by
  revert n
  cases m <;> decide

/-- What a step can do to the block, whatever it leaves at the ports. -/
inductive BlockStep (s : State) : State → Prop
  /-- nothing: an answer only, or no command -/
  | same (p : HostPort) : BlockStep s { s with port := p }
  /-- `RST`, or the `rst` pin (R252, R310) -/
  | reset (p : HostPort) : BlockStep s { State.reset with port := p }
  /-- `WRCSR` of a closed block (R253): the configuration CSRs may take new values -/
  | configWritten (p : HostPort) (fmt fs nch : Word32) (width : F64) (lpfen : Bool)
      (hs : s.ss = .closed) :
      BlockStep s { s with
        fmt := fmt, fs := fs, nch := nch, width := width, lpfen := lpfen, port := p }
  /-- `CHECK` or `OPEN` of a closed block, judged but not opened (R255, R257, R290) -/
  | statusWritten (p : HostPort) (c : Status) (hs : s.ss = .closed) :
      BlockStep s { s with status := c, port := p }
  /-- `OPEN` of a closed block with a legal configuration (R257) -/
  | opened (p : HostPort) (hs : s.ss = .closed) (hj : judge documentConsts s = .status .ok) :
      BlockStep s { s.opened params with port := p }
  /-- `CLOSE` of an open stream (R259) -/
  | discarded (p : HostPort) (hs : s.ss = .opened) : BlockStep s { s.discarded with port := p }
  /-- `PUSH` to an `NFM` stream (R258) -/
  | nfmPushed (p : HostPort) (i q : F64) (hs : s.ss = .opened) (hm : s.derived.mod = 1#4) :
      BlockStep s { s with dp := (fmdStep f64 params s.setup s.dp i q).1, port := p }
  /-- `PUSH` to a `WFM` stream (R258) -/
  | wfmPushed (p : HostPort) (i q : F64) (hs : s.ss = .opened) (hm : s.derived.mod = 5#4) :
      BlockStep s { s with dp := (wfmFrame f64 params s.setup s.dp i q).1, port := p }

theorem blockStep_wrcsr {s t : State} {n : BitVec 8} {v : Word64}
    (h : exec (.wrcsr n v) s = .next t) : BlockStep s t := by
  change execWrcsr n v s = .next t at h
  rcases execWrcsr_cases n v s with ⟨heq, -⟩ | ⟨hs, u, hw, heq⟩
  · obtain rfl := Host.Outcome.next.inj (heq.symm.trans h)
    exact .same _
  · obtain rfl := Host.Outcome.next.inj (heq.symm.trans h)
    rcases writeConfig_cases hw with ⟨-, rfl⟩ | ⟨-, rfl⟩ | ⟨-, rfl⟩ | ⟨-, rfl⟩ | ⟨-, rfl⟩
    all_goals exact .configWritten _ _ _ _ _ _ hs

theorem blockStep_rdcsr {s t : State} {n : BitVec 8} (h : exec (.rdcsr n) s = .next t) :
    BlockStep s t := by
  change execRdcsr n s = .next t at h
  rcases execRdcsr_cases n s with ⟨-, heq⟩ | ⟨c, -, heq⟩
  all_goals
    obtain rfl := Host.Outcome.next.inj (heq.symm.trans h)
    exact .same _

theorem blockStep_checkWith (s : State) : BlockStep s (checkWith params s) := by
  rcases checkWith_cases params s with
    ⟨-, heq⟩ | ⟨-, -, heq⟩ | ⟨hs, -, heq⟩ | ⟨hs, c, -, -, heq⟩ <;> rw [heq]
  · exact .same _
  · exact .same _
  · exact .statusWritten _ .ok hs
  · exact .statusWritten _ c hs

theorem blockStep_openWith (s : State) : BlockStep s (openWith params s) := by
  rcases openWith_cases params s with
    ⟨-, heq⟩ | ⟨-, -, heq⟩ | ⟨hs, hj, heq⟩ | ⟨hs, c, -, -, heq⟩ <;> rw [heq]
  · exact .same _
  · exact .same _
  · exact .opened _ hs hj
  · exact .statusWritten _ c hs

theorem blockStep_push {s t : State} {i q : F64} (h : exec (.push i q) s = .next t) :
    BlockStep s t := by
  rcases pushWith_cases (P := params) h with
    ⟨-, rfl⟩ | ⟨hs, hm, rfl⟩ | ⟨-, -, rfl⟩ | ⟨-, -, rfl⟩ | ⟨hs, hm, rfl⟩
  · exact .same _
  · exact .nfmPushed _ i q hs ((ModulationType.ofOrdinal_eq_some_iff _ _).1 hm)
  · exact .same _
  · exact .same _
  · exact .wfmPushed _ i q hs ((ModulationType.ofOrdinal_eq_some_iff _ _).1 hm)

theorem blockStep_closeStream {s t : State} (h : exec .closeStream s = .next t) :
    BlockStep s t := by
  change execClose s = .next t at h
  rcases execClose_cases s with ⟨hs, heq⟩ | ⟨-, heq⟩
  all_goals obtain rfl := Host.Outcome.next.inj (heq.symm.trans h)
  · exact .discarded _ hs
  · exact .same _

/-- Every command is a block step. -/
theorem blockStep_exec {s t : State} {i : Instr} (h : exec i s = .next t) : BlockStep s t := by
  cases i with
  | nop => obtain rfl := Host.Outcome.next.inj h; exact .same _
  | rst => obtain rfl := Host.Outcome.next.inj h; exact .reset _
  | wrcsr n v => exact blockStep_wrcsr h
  | rdcsr n => exact blockStep_rdcsr h
  | check => obtain rfl := Host.Outcome.next.inj h; exact blockStep_checkWith s
  | openStream => obtain rfl := Host.Outcome.next.inj h; exact blockStep_openWith s
  | push i q => exact blockStep_push h
  | closeStream => exact blockStep_closeStream h

/-- What is pending at the port does not count. -/
theorem BlockStep.of_taken {s t : State} {rest : List PortEvent} (h : BlockStep (s.taken rest) t) :
    BlockStep s t := by
  cases h with
  | same p => exact .same p
  | reset p => exact .reset p
  | configWritten p fmt fs nch width lpfen hs => exact .configWritten p fmt fs nch width lpfen hs
  | statusWritten p c hs => exact .statusWritten p c hs
  | opened p hs hj => exact .opened p hs hj
  | discarded p hs => exact .discarded p hs
  | nfmPushed p i q hs hm => exact .nfmPushed p i q hs hm
  | wfmPushed p i q hs hm => exact .wfmPushed p i q hs hm

/-- Every step is a block step. -/
theorem blockStep_step {s t : State} (h : step s = .next t) : BlockStep s t := by
  rcases transact_cases h with ⟨-, rfl⟩ | ⟨rest, -, rfl⟩ |
    ⟨c, rest, -, ⟨i, -, hexec⟩ | ⟨e, -, rfl⟩⟩
  · exact .same _
  · exact .reset _
  · exact (blockStep_exec hexec).of_taken
  · exact .same _

end Sys2Proof.Machine
end

section
/-! The invariant of the machine: O10, O11. -/

namespace Sys2Proof.Machine

/-! ## A closed block -/

theorem State.inv_of_closed {s : State} (hs : s.ss = .closed) (hd : s.derived = Derived.reset f64)
    (hdp : s.dp = Datapath.reset f64 documentConsts) : s.Inv where
  closed _ := ⟨hd, hdp⟩
  configured ho := by rw [hs] at ho; cases ho
  rings ho := by rw [hs] at ho; cases ho
  fcenter := by rw [hdp]; rfl

theorem State.thetaInRange_of_reset {s : State} (h : s.dp = Datapath.reset f64 documentConsts) :
    s.thetaInRange := by
  unfold State.thetaInRange
  rw [h]
  decide

/-- Settles O10. -/
theorem resetMeetsTheInvariant : Obligations.ResetMeetsTheInvariant :=
  ⟨State.inv_of_closed rfl rfl rfl, State.thetaInRange_of_reset rfl⟩

/-! ## `OPEN`: what an accepted configuration latches -/

theorem latchable_effectiveMod (m : BitVec 4) (h : hasNoRule m = false) :
    latchable (effectiveMod m) := by
  revert m
  decide

theorem isWfmTag_iff_effectiveMod (m : BitVec 4) : isWfmTag m = true ↔ effectiveMod m = 5#4 := by
  revert m
  decide

section Latch
variable {F : Type} (A : Arith F) (P : Params F) (fmt fs : Word32) (width : F) (lpfen : Bool)

theorem latch_mod : (latch A P fmt fs width lpfen).mod = effectiveMod (tagModf fmt) := rfl

theorem latch_difflen : (latch A P fmt fs width lpfen).difflen = diffLength P.consts fs := rfl

theorem latch_de :
    (latch A P fmt fs width lpfen).de =
      if effectiveMod (tagModf fmt) = 5#4 then tagDef fmt else 0#2 := by simp [latch]

theorem latch_nout :
    (latch A P fmt fs width lpfen).nout =
      if effectiveMod (tagModf fmt) = 5#4 then 2#2 else 1#2 := by simp [latch]

theorem latch_lpfon (h : (latch A P fmt fs width lpfen).lpfon = true) :
    effectiveMod (tagModf fmt) = 5#4 := by
  simp only [latch, Bool.and_eq_true, decide_eq_true_eq] at h
  exact h.1.1

end Latch

theorem State.configured_opened {s : State} (hj : judge documentConsts s = .status .ok)
    (p : HostPort) : State.Configured { s.opened params with port := p } := by
  obtain ⟨hrate, hchannels, hwfm, hrule⟩ := judge_ok hj
  rw [isWfmTag_iff_effectiveMod] at hwfm
  exact
    { status := rfl
      latched := latchable_effectiveMod _ hrule
      mod := rfl
      nout := latch_nout f64 params s.fmt s.fs s.width s.lpfen
      deOnlyForWfm := fun hm =>
        (latch_de f64 params s.fmt s.fs s.width s.lpfen).trans (if_neg hm)
      deNotReserved := by
        change (latch f64 params s.fmt s.fs s.width s.lpfen).de ≠ 3#2
        rw [latch_de]
        split
        next hm =>
          obtain ⟨-, hde, -⟩ := hwfm hm
          exact hde
        next => decide
      lpfOnlyForWfm := latch_lpfon f64 params s.fmt s.fs s.width s.lpfen
      difflen := rfl
      rate := hrate
      channels := hchannels
      wfmRate := fun hm => by
        obtain ⟨hmin, -, -⟩ := hwfm hm
        exact hmin }

theorem State.Configured.difflen_pos {s : State} (h : s.Configured) :
    0 < s.derived.difflen.toNat := by
  rw [h.difflen]
  split <;> decide

theorem State.Configured.ringsLegal_reset {s : State} (h : s.Configured)
    (hdp : s.dp = Datapath.reset f64 documentConsts) : s.RingsLegal where
  ph := by rw [hdp]; exact Ring.legal_reset h.difflen_pos
  dl := by rw [hdp]; exact Ring.legal_reset (Nat.succ_pos _)
  pbh := by rw [hdp]; rfl
  sbh := by rw [hdp]; rfl
  llh := by rw [hdp]; exact Ring.legal_reset (Nat.succ_pos _)
  lrh := by rw [hdp]; exact Ring.legal_reset (Nat.succ_pos _)

theorem State.inv_opened {s : State} (hj : judge documentConsts s = .status .ok) (p : HostPort) :
    State.Inv { s.opened params with port := p } where
  closed hc := by cases hc
  configured _ := State.configured_opened hj p
  rings _ := (State.configured_opened hj p).ringsLegal_reset rfl
  fcenter := rfl

/-! ## `PUSH`: the configuration stays, the rings stay legal -/

theorem State.Configured.with_dp {s : State} (h : s.Configured) (d : Datapath F64) (p : HostPort) :
    State.Configured { s with dp := d, port := p } where
  status := h.status
  latched := h.latched
  mod := h.mod
  nout := h.nout
  deOnlyForWfm := h.deOnlyForWfm
  deNotReserved := h.deNotReserved
  lpfOnlyForWfm := h.lpfOnlyForWfm
  difflen := h.difflen
  rate := h.rate
  channels := h.channels
  wfmRate := h.wfmRate

theorem State.RingsLegal.with_port {s : State} (h : s.RingsLegal) (p : HostPort) :
    State.RingsLegal { s with port := p } where
  ph := h.ph
  dl := h.dl
  pbh := h.pbh
  sbh := h.sbh
  llh := h.llh
  lrh := h.lrh

theorem State.RingsLegal.nfmPushed {s : State} (h : s.RingsLegal) (i q : F64) (p : HostPort) :
    State.RingsLegal
      { s with dp := (fmdStep f64 params s.setup s.dp i q).1, port := p } where
  ph := by
    change Ring.legal _ (fmdStep f64 params s.setup s.dp i q).1.ph
    rw [fmdStep_ph]
    exact Ring.legal_ringPush h.ph _
  dl := h.dl
  pbh := h.pbh
  sbh := h.sbh
  llh := h.llh
  lrh := h.lrh

theorem State.RingsLegal.wfmPushed {s : State} (h : s.RingsLegal) (i q : F64) (p : HostPort) :
    State.RingsLegal
      { s with dp := (wfmFrame f64 params s.setup s.dp i q).1, port := p } := by
  obtain ⟨hph, hdl, hpbh, hsbh, hllh, hlrh⟩ := wfmFrame_rings f64 params s.setup s.dp i q
  exact
    { ph := by
        simp only [hph]
        exact (h.nfmPushed i q p).ph
      dl := by
        simp only [hdl]
        exact Ring.legal_ringPush h.dl _
      pbh := by simp only [hpbh, hdl, h.pbh]
      sbh := by simp only [hsbh, hdl, h.sbh]
      llh := hllh.legal h.llh
      lrh := hlrh.legal h.lrh }

theorem wfmFrame_fcenter (E : Setup F64) (d : Datapath F64) (i q : F64) :
    (wfmFrame f64 params E d i q).1.nco.fcenter = d.nco.fcenter := by
  rcases wfmFrame_nco f64 params E d i q with h | ⟨p, h⟩
  · rw [h]
  · rw [h, ncoSync_fcenter]

/-- An open stream keeps the invariant when its datapath keeps its part of it. -/
theorem State.Inv.with_dp {s : State} (h : s.Inv) (hs : s.ss = .opened) {d : Datapath F64}
    {p : HostPort} (hrings : State.RingsLegal { s with dp := d, port := p })
    (hfcenter : d.nco.fcenter = s.dp.nco.fcenter) : State.Inv { s with dp := d, port := p } where
  closed hc := by
    change s.ss = .closed at hc
    rw [hs] at hc
    cases hc
  configured _ := (h.configured hs).with_dp d p
  rings _ := hrings
  fcenter := hfcenter.trans h.fcenter

theorem State.Inv.with_port {s : State} (h : s.Inv) (p : HostPort) :
    State.Inv { s with port := p } where
  closed := h.closed
  configured hs := (h.configured hs).with_dp s.dp p
  rings hs := (h.rings hs).with_port p
  fcenter := h.fcenter

/-- Settles O11, by the cases of a step: a closed block is at its reset values after the step or has
just latched a judged configuration, an open one has moved its rings by pushes only. -/
theorem stepKeepsTheInvariant : Obligations.StepKeepsTheInvariant := by
  intro s t hinv h
  cases blockStep_step h with
  | same p => exact hinv.with_port p
  | reset p => exact State.inv_of_closed rfl rfl rfl
  | configWritten p fmt fs nch width lpfen hs =>
    obtain ⟨hd, hdp⟩ := hinv.closed hs
    exact State.inv_of_closed hs hd hdp
  | statusWritten p c hs =>
    obtain ⟨hd, hdp⟩ := hinv.closed hs
    exact State.inv_of_closed hs hd hdp
  | opened p hs hj => exact State.inv_opened hj p
  | discarded p hs => exact State.inv_of_closed rfl rfl rfl
  | nfmPushed p i q hs hm => exact hinv.with_dp hs ((hinv.rings hs).nfmPushed i q p) rfl
  | wfmPushed p i q hs hm =>
    exact hinv.with_dp hs ((hinv.rings hs).wfmPushed i q p) (wfmFrame_fcenter s.setup s.dp i q)

end Sys2Proof.Machine
end

section
/-! What every step keeps besides the invariant: O12, O26. -/

namespace Sys2Proof.Machine

/-- A frame leaves `THETA` as it was or wraps it (R188). -/
theorem wfmFrame_theta_in_range {s : State} (h : s.thetaInRange) (i q : F64) (p : HostPort) :
    State.thetaInRange
      { s with dp := (wfmFrame f64 params s.setup s.dp i q).1, port := p } := by
  unfold State.thetaInRange
  rcases wfmFrame_nco f64 params s.setup s.dp i q with heq | ⟨pilot, heq⟩
  · simp only [heq]
    exact h
  · simp only [heq, ncoSync_theta]
    exact F64.wrap_in_range _

/-- Settles O12: the only write to `THETA` of a running stream is a wrapped one. -/
theorem stepKeepsThetaInRange : Obligations.StepKeepsThetaInRange := by
  intro s t hs h
  cases blockStep_step h with
  | same => exact hs
  | reset => exact State.thetaInRange_of_reset rfl
  | configWritten => exact hs
  | statusWritten => exact hs
  | opened => exact State.thetaInRange_of_reset rfl
  | discarded => exact State.thetaInRange_of_reset rfl
  | nfmPushed => exact hs
  | wfmPushed p i q => exact wfmFrame_theta_in_range hs i q p

/-- Settles O26: the configuration is written in a closed block or by a step that leaves one. -/
theorem configurationIsFrozenWhileOpen : Obligations.ConfigurationIsFrozenWhileOpen := by
  intro s t hs h ht
  have hopen : s.ss ≠ .closed := by simp [hs]
  cases blockStep_step h with
  | same => exact ⟨rfl, rfl, rfl, rfl, rfl, rfl⟩
  | reset => cases ht
  | configWritten _ _ _ _ _ _ hc => exact absurd hc hopen
  | statusWritten _ _ hc => exact absurd hc hopen
  | opened _ hc => exact absurd hc hopen
  | discarded => cases ht
  | nfmPushed => exact ⟨rfl, rfl, rfl, rfl, rfl, rfl⟩
  | wfmPushed => exact ⟨rfl, rfl, rfl, rfl, rfl, rfl⟩

end Sys2Proof.Machine
end

section
/-! The CSR file and the reset values: O9, O17, O18; and what a narrowband `PUSH` leaves alone: O33. -/

namespace Sys2Proof.Machine

/-! ## Commands on an assigned number -/

theorem exec_rdcsr_number (s : State) (c : Csr) :
    exec (.rdcsr c.number) s = .next (s.responding 0x00000000#32 (s.csrValue c) 0#64) := by
  change execRdcsr c.number s = _
  simp only [execRdcsr, Csr.ofNumber_number, ackValue_eq]

theorem exec_rdcsr_unassigned (s : State) {n : BitVec 8} (h : csrAssigned n = false) :
    exec (.rdcsr n) s = .next (s.responding 0x00000002#32 0#64 0#64) := by
  have hnone : Csr.ofNumber n = none := by simpa [csrAssigned_iff] using h
  change execRdcsr n s = _
  simp only [execRdcsr, hnone, nak_eq]

section WriteConfig
variable (s : State) (v : Word64)

theorem writeConfig_fmt :
    s.writeConfig Csr.fmt.number v = some { s with fmt := operandWord v } := by
  simp only [State.writeConfig, Csr.ofNumber_number]

theorem writeConfig_fs :
    s.writeConfig Csr.fs.number v = some { s with fs := operandWord v } := by
  simp only [State.writeConfig, Csr.ofNumber_number]

theorem writeConfig_nch :
    s.writeConfig Csr.nch.number v = some { s with nch := operandWord v } := by
  simp only [State.writeConfig, Csr.ofNumber_number]

theorem writeConfig_width :
    s.writeConfig Csr.width.number v = some { s with width := operandF64 v } := by
  simp only [State.writeConfig, Csr.ofNumber_number]

theorem writeConfig_lpfen :
    s.writeConfig Csr.lpfen.number v = some { s with lpfen := operandBit v } := by
  simp only [State.writeConfig, Csr.ofNumber_number]

end WriteConfig

theorem exec_wrcsr_closed {s t : State} {n : BitVec 8} {v : Word64} (hs : s.ss = .closed)
    (hw : s.writeConfig n v = some t) : exec (.wrcsr n v) s = .next t.ack := by
  change execWrcsr n v s = _
  simp only [execWrcsr, hw, hs]

/-- The gaps between the numbers of R26 to R29. -/
theorem csrAssigned_eq_false {n : BitVec 8}
    (h : (0x04 < n.toNat ∧ n.toNat < 0x10) ∨ (0x1C < n.toNat ∧ n.toNat < 0x20) ∨ 0x2B < n.toNat) :
    csrAssigned n = false := by
  simp only [csrAssigned, Bool.or_eq_false_iff, Bool.and_eq_false_iff, decide_eq_false_iff_not]
  omega

/-! ## The values of the coded CSRs -/

theorem setWidth_ofBool (b : Bool) :
    (BitVec.ofBool b).setWidth 64 = if b then 1#64 else 0#64 := by
  cases b <;> rfl

/-- No CSR shows the response ports. -/
theorem csrValue_ack (s : State) (c : Csr) : s.ack.csrValue c = s.csrValue c := by
  cases c <;> rfl

/-- One row of the table of `RDCSR`: the CSR with this number reads as `v`. -/
theorem exec_rdcsr_of_csrValue {s : State} (c : Csr) {v : Word64} (h : s.csrValue c = v) :
    exec (.rdcsr c.number) s = .next (s.responding 0x00000000#32 v 0#64) :=
  h ▸ exec_rdcsr_number s c

/-- Settles O17: the rows of the table in the order of the numbers; only the Booleans and the
enumerations hold something else than their bits. -/
theorem rdcsrAnswersTheCsr : Obligations.RdcsrAnswersTheCsr := by
  intro s
  refine ⟨?_, fun n hn => exec_rdcsr_unassigned s (csrAssigned_eq_false hn)⟩
  have row := exec_rdcsr_number s
  have hstatus : s.csrValue .status = s.status.code.setWidth 64 := rfl
  have hss : s.csrValue .ss = s.ss.code.setWidth 64 := rfl
  have hpres : s.csrValue .pres = s.dp.agc.pres.code.setWidth 64 := rfl
  simp only [List.forall_mem_cons]
  exact ⟨row .fmt, row .fs, row .nch, row .width,
    exec_rdcsr_of_csrValue .lpfen (setWidth_ofBool s.lpfen),
    exec_rdcsr_of_csrValue .status (by rw [hstatus]; cases s.status <;> rfl),
    exec_rdcsr_of_csrValue .ss (by rw [hss]; cases s.ss <;> rfl),
    row .mod, row .de, row .nout,
    exec_rdcsr_of_csrValue .lpfon (setWidth_ofBool s.derived.lpfon),
    row .difflen, row .fmgain, row .agcinc, row .agcdec, row .sgain, row .dep1, row .dez1,
    exec_rdcsr_of_csrValue .pres (by rw [hpres]; cases s.dp.agc.pres <;> rfl),
    row .gain, row .peak, row .theta, row .ftrack, row .fcenter, row .cosc, row .sinc, row .phase,
    row .z1i, row .z1q, row .perr, fun _ h => absurd h List.not_mem_nil⟩

/-! ## Reading back (R26) -/

/-- What a closed block reads back after a configuration write is the value of the CSR written. -/
theorem wrcsr_rdcsr {s t : State} {v x : Word64} (c : Csr) (hs : s.ss = .closed)
    (hw : s.writeConfig c.number v = some t) (hx : t.csrValue c = x) :
    ∃ t u, exec (.wrcsr c.number v) s = .next t ∧ exec (.rdcsr c.number) t = .next u ∧
      u.port.response = ⟨0x00000000#32, x, 0#64⟩ :=
  ⟨t.ack, _, exec_wrcsr_closed hs hw,
    exec_rdcsr_of_csrValue c ((csrValue_ack t c).trans hx), rfl⟩

theorem ofBool_operandBit (v : Word64) : BitVec.ofBool (operandBit v) = v.extractLsb' 0 1 := by
  refine BitVec.eq_of_getLsbD_eq fun i hi => ?_
  obtain rfl : i = 0 := by omega
  simp [operandBit]

/-- Settles O18: a configuration CSR holds the bits of the operand that its write takes. -/
theorem configurationReadsBack : Obligations.ConfigurationReadsBack := by
  intro s v hs
  simp only [List.forall_mem_cons]
  exact ⟨wrcsr_rdcsr .fmt hs (writeConfig_fmt s v) rfl, wrcsr_rdcsr .fs hs (writeConfig_fs s v) rfl,
    wrcsr_rdcsr .nch hs (writeConfig_nch s v) rfl, wrcsr_rdcsr .width hs (writeConfig_width s v) rfl,
    wrcsr_rdcsr .lpfen hs (writeConfig_lpfen s v)
      (congrArg (BitVec.setWidth 64) (ofBool_operandBit v)),
    fun _ h => absurd h List.not_mem_nil⟩

/-- Settles O9: every field is its literal; a ring after reset lists no element, so each reads as
`+0.0`. -/
theorem resetHoldsTheStatedValues : Obligations.ResetHoldsTheStatedValues :=
  ⟨⟨rfl, rfl, rfl, rfl, rfl, rfl, rfl⟩, rfl, ⟨rfl, rfl, rfl, rfl, rfl⟩,
    fun _ => ⟨rfl, rfl, rfl, rfl, rfl, rfl⟩, ⟨rfl, rfl, rfl, rfl, rfl, rfl⟩⟩

/-- Settles O33, by what `PUSH` does for each latched modulation: of those that are not `WFM` only
`NFM` touches the datapath, and there the discriminator's own registers. -/
theorem narrowbandLeavesTheDecoderAlone : Obligations.NarrowbandLeavesTheDecoderAlone := by
  intro s t i q h hwfm
  rcases pushWith_cases (P := params) h with
    ⟨-, rfl⟩ | ⟨-, hm, rfl⟩ | ⟨-, -, rfl⟩ | ⟨-, -, rfl⟩ | ⟨-, hm, rfl⟩
  · exact ⟨rfl, fun _ => rfl⟩
  · exact ⟨rfl, absurd ((ModulationType.ofOrdinal_eq_some_iff _ _).1 hm)⟩
  · exact ⟨rfl, fun _ => rfl⟩
  · exact ⟨rfl, fun _ => rfl⟩
  · exact absurd ((ModulationType.ofOrdinal_eq_some_iff _ _).1 hm) hwfm

end Sys2Proof.Machine
end

section
/-! SUPPORT for the statements of the family 20_memory.  What `PUSH` answers for each latched
modulation, said once over the response ports (spec/47_facade_commands.md R258). -/

namespace Sys2Proof.Machine

/-! ## One frame of a `WFM` stream (R175, R179) -/

section Frames
variable {F : Type} [DecidableEq F] (A : Arith F) (P : Params F) {E : Setup F} (d : Datapath F)

/-- Where no de-emphasis is requested the decoder's two samples are the frame's (R179). -/
theorem wfmFrame_of_de_eq_zero (h : E.derived.de = 0#2) (i q : F) :
    wfmFrame A P E d i q =
      mpxStep A P E (fmdStep A P E d i q).1 (fmdStep A P E d i q).2 := by
  simp only [wfmFrame, if_pos h]

/-- Where it is requested both channels pass through it, the left one first (R178, D38). -/
theorem wfmFrame_of_de_ne_zero (h : E.derived.de ≠ 0#2) (i q : F) :
    wfmFrame A P E d i q =
      let x := fmdStep A P E d i q
      let m := mpxStep A P E x.1 x.2
      let l := deeStep A P E.derived m.1.dee .left m.2.1
      let r := deeStep A P E.derived l.1 .right m.2.2
      ({ m.1 with dee := r.1 }, l.2, r.2) := by
  simp only [wfmFrame, if_neg h]

end Frames

/-! ## The dispatch (R258) -/

section Dispatch
variable {s : State} (i q : F64)

theorem exec_push_closed (hs : s.ss = .closed) :
    exec (.push i q) s = .next (s.responding 0x00000002#32 0#64 0#64) := by
  change pushWith params i q s = _
  simp only [pushWith, hs, nak_eq]

theorem exec_push_nfm (hs : s.ss = .opened) (hm : s.derived.mod = 1#4) :
    let y := fmdStep f64 params s.setup s.dp i q
    exec (.push i q) s =
      .next (State.delivering { s with dp := y.1 } 0x00000004#32 y.2.bits 0#64 [y.2]) := by
  have hrule := (ModulationType.ofOrdinal_eq_some_iff _ .nfm).2 hm
  change pushWith params i q s = _
  simp only [pushWith, hs, hrule, deliverOne_eq]

theorem exec_push_am (hs : s.ss = .opened) (hm : s.derived.mod = 2#4) :
    let y := amdStep f64 documentConsts i q
    exec (.push i q) s = .next (s.delivering 0x00000004#32 y.bits 0#64 [y]) := by
  have hrule := (ModulationType.ofOrdinal_eq_some_iff _ .am).2 hm
  change pushWith params i q s = _
  simp only [pushWith, hs, hrule, deliverOne_eq]
  rfl

/-- The three sideband modulations share one rule (R166). -/
theorem exec_push_ssb (hs : s.ss = .opened)
    (hm : s.derived.mod = 3#4 ∨ s.derived.mod = 4#4 ∨ s.derived.mod = 8#4) :
    let y := ssbStep i q
    exec (.push i q) s = .next (s.delivering 0x00000004#32 y.bits 0#64 [y]) := by
  have hrule : ModulationType.ofOrdinal s.derived.mod = some .lsb ∨
      ModulationType.ofOrdinal s.derived.mod = some .usb ∨
      ModulationType.ofOrdinal s.derived.mod = some .cw := by
    simp only [ModulationType.ofOrdinal_eq_some_iff]
    exact hm
  change pushWith params i q s = _
  rcases hrule with hrule | hrule | hrule
  all_goals simp only [pushWith, hs, hrule, deliverOne_eq]

theorem exec_push_wfm (hs : s.ss = .opened) (hm : s.derived.mod = 5#4) :
    let y := wfmFrame f64 params s.setup s.dp i q
    exec (.push i q) s = .next (State.delivering { s with dp := y.1 } 0x00000008#32
      y.2.1.bits y.2.2.bits [y.2.1, y.2.2]) := by
  have hrule := (ModulationType.ofOrdinal_eq_some_iff _ .wfm).2 hm
  change pushWith params i q s = _
  simp only [pushWith, hs, hrule, deliverTwo_eq]

end Dispatch

/-- Settles O29, one arm of the dispatch after the other; a `WFM` frame has the two forms of R179. -/
theorem pushDispatchesByModulation : Obligations.PushDispatchesByModulation := by
  intro s i q
  refine ⟨exec_push_closed i q, exec_push_nfm i q, exec_push_am i q, exec_push_ssb i q, ?_⟩
  intro hs hm x m l r
  rw [exec_push_wfm i q hs hm]
  split
  next hde => rw [wfmFrame_of_de_eq_zero f64 params s.dp (E := s.setup) hde]
  next hde => rw [wfmFrame_of_de_ne_zero f64 params s.dp (E := s.setup) hde]; rfl

end Sys2Proof.Machine
end

section
/-! The block read: O34.  The samples of one push are counted by `NOUT`, and an induction over the
pairs adds them up (spec/20_memory.md R64, R65). -/

namespace Sys2Proof.Machine

/-- A push to an open stream delivers `NOUT` samples, says so in `COUNT`, and writes the datapath and
the ports only (R64, R97). -/
theorem exec_push_delivers {s : State} (h : s.Configured) (hs : s.ss = .opened) (i q : F64) :
    ∃ d rsp v0 v1 ys,
      exec (.push i q) s = .next (State.delivering { s with dp := d } rsp v0 v1 ys) ∧
      rspCount rsp = s.derived.nout ∧ ys.length = s.derived.nout.toNat := by
  have hnout := h.nout
  rcases h.latched with hm | hm | hm | hm | hm | hm
  all_goals
    simp only [hm] at hnout
    rw [hnout]
  · exact ⟨_, _, _, _, _, exec_push_nfm i q hs hm, by decide, rfl⟩
  · exact ⟨s.dp, _, _, _, _, exec_push_am i q hs hm, by decide, rfl⟩
  · exact ⟨s.dp, _, _, _, _, exec_push_ssb i q hs (.inl hm), by decide, rfl⟩
  · exact ⟨s.dp, _, _, _, _, exec_push_ssb i q hs (.inr (.inl hm)), by decide, rfl⟩
  · exact ⟨_, _, _, _, _, exec_push_wfm i q hs hm, by decide, rfl⟩
  · exact ⟨s.dp, _, _, _, _, exec_push_ssb i q hs (.inr (.inr hm)), by decide, rfl⟩

theorem decode_encode_push (i q : F64) :
    decode (encode (.push i q)) = .instr (.push i q) := by
  simp [decode, encode, decodeNoCsr, cmdZero, cmdOp, cmdCsrn, cmdWord]

/-- A push performed by itself keeps the invariant, as the step that takes it off the port does. -/
theorem State.Inv.exec_push {s t : State} (h : s.Inv) {i q : F64}
    (hpush : exec (.push i q) s = .next t) : t.Inv := by
  have hstep : step (s.present (encode (.push i q))) = .next t := by
    rw [stepRunsTheDecodedCommand _ _ _ _ rfl (decode_encode_push i q)]
    exact hpush
  exact stepKeepsTheInvariant _ t (h.with_port _) hstep

theorem readBlock_cons {s t u : State} {i q : F64} {rest : List (F64 × F64)} {n : Nat}
    (hpush : exec (.push i q) s = .next t) (hrest : readBlock rest t = .next (u, n)) :
    readBlock ((i, q) :: rest) s = .next (u, (rspCount t.port.response.rsp).toNat + n) := by
  simp only [readBlock, hpush, hrest]

/-- A block read of an open stream delivers `NOUT` samples for every pair. -/
theorem readBlock_delivers (pairs : List (F64 × F64)) {s : State} (h : s.Inv)
    (hs : s.ss = .opened) :
    ∃ t, readBlock pairs s = .next (t, s.derived.nout.toNat * pairs.length) ∧
      t.port.output.length = s.port.output.length + s.derived.nout.toNat * pairs.length ∧
      t.Inv ∧ t.ss = .opened := by
  induction pairs generalizing s with
  | nil => exact ⟨s, rfl, rfl, h, hs⟩
  | cons pair rest ih =>
    obtain ⟨i, q⟩ := pair
    obtain ⟨d, rsp, v0, v1, ys, hpush, hcount, hlen⟩ := exec_push_delivers (h.configured hs) hs i q
    obtain ⟨u, hread, hout, hinv, hopen⟩ := ih (h.exec_push hpush) hs
    have hread' := readBlock_cons hpush hread
    simp only [State.delivering, List.length_append, hlen, hcount] at hread' hout
    refine ⟨u, ?_, ?_, hinv, hopen⟩
    · rw [hread', List.length_cons, Nat.mul_succ, Nat.add_comm]
    · rw [hout, List.length_cons, Nat.mul_succ]
      omega

/-- Settles O34: `NOUT` is 2 on a `WFM` stream and 1 on any other. -/
theorem blockReadCountsItsSamples : Obligations.BlockReadCountsItsSamples := by
  intro pairs s h hs count
  have hcount : count = s.derived.nout.toNat * pairs.length := by
    rw [(h.configured hs).nout]
    by_cases hm : s.derived.mod = 5#4 <;> simp [count, hm]
  rw [hcount]
  exact readBlock_delivers pairs h hs

end Sys2Proof.Machine
end

section
/-! SUPPORT for the statements of the family 30_encoding: the fields of a command word, and once
what the decoder answers in terms of them (spec/30_encoding.md R96, R98, R101). -/

namespace Sys2Proof

/-! ## The fields of a command word (R96) -/

@[simp] theorem cmdOp_cmdWord (op : BitVec 4) (n : BitVec 8) : cmdOp (cmdWord op n) = op := by
  simp only [cmdOp, cmdWord]
  rw [BitVec.extractLsb'_append_eq_of_le (by norm_num)]
  exact BitVec.extractLsb'_append_eq_left

@[simp] theorem cmdCsrn_cmdWord (op : BitVec 4) (n : BitVec 8) : cmdCsrn (cmdWord op n) = n := by
  simp only [cmdCsrn, cmdWord]
  rw [BitVec.extractLsb'_append_eq_of_le (by norm_num)]
  exact BitVec.extractLsb'_append_eq_right

@[simp] theorem cmdZero_cmdWord (op : BitVec 4) (n : BitVec 8) : cmdZero (cmdWord op n) = 0#20 :=
  BitVec.extractLsb'_append_eq_right

/-- A word whose low bits are zero is its opcode and its CSR number. -/
theorem cmdWord_cmdOp_cmdCsrn {w : Word32} (h : cmdZero w = 0#20) :
    cmdWord (cmdOp w) (cmdCsrn w) = w := by
  unfold cmdWord
  rw [← h, cmdOp, cmdCsrn, cmdZero,
    BitVec.extractLsb'_append_extractLsb'_eq_extractLsb' (rfl : 28 = 20 + 8),
    BitVec.extractLsb'_append_extractLsb'_eq_extractLsb' (rfl : 20 = 0 + 20)]
  exact BitVec.extractLsb'_eq_self

/-- The word with this opcode number, this CSR number and zero bits below. -/
theorem eq_cmdWord {w : Word32} {op : BitVec 4} {n : BitVec 8} (hzero : cmdZero w = 0#20)
    (hop : (cmdOp w).toNat = op.toNat) (hcsrn : cmdCsrn w = n) : w = cmdWord op n := by
  rw [← cmdWord_cmdOp_cmdCsrn hzero, BitVec.eq_of_toNat_eq hop, hcsrn]

/-! ## What the decoder answers (R98) -/

/-- The data ports hold the operands that the instruction takes from them (R99). -/
def Instr.OperandsOn (c : Command) : Instr → Prop
  | .wrcsr _ v => c.d0 = v
  | .push x y => c.d0 = x.bits ∧ c.d1 = y.bits
  | _ => True

theorem decodeNoCsr_eq_instr_iff {c : Command} {i j : Instr} :
    decodeNoCsr c i = .instr j ↔ cmdCsrn c.cmd = 0#8 ∧ i = j := by
  unfold decodeNoCsr
  split <;> simp_all

/-- What a triple that decodes holds. -/
theorem cmd_eq_of_decode {c : Command} {i : Instr} (h : decode c = .instr i) :
    c.cmd = (encode i).cmd ∧ i.OperandsOn c := by
  unfold decode at h
  split at h
  next hzero =>
    split at h
    case h_3 hop => cases h; exact ⟨eq_cmdWord hzero hop rfl, rfl⟩
    case h_4 hop => cases h; exact ⟨eq_cmdWord hzero hop rfl, trivial⟩
    case h_7 hop =>
      obtain ⟨hcsrn, rfl⟩ := decodeNoCsr_eq_instr_iff.1 h
      exact ⟨eq_cmdWord hzero hop hcsrn, rfl, rfl⟩
    case h_9 => cases h
    all_goals
      rename_i hop
      obtain ⟨hcsrn, rfl⟩ := decodeNoCsr_eq_instr_iff.1 h
      exact ⟨eq_cmdWord hzero hop hcsrn, trivial⟩
  next => cases h

/-- A triple with the word of an instruction and its operands decodes to it. -/
theorem decode_of_cmd_eq {c : Command} {i : Instr} (hcmd : c.cmd = (encode i).cmd)
    (hops : i.OperandsOn c) : decode c = .instr i := by
  cases i with
  | wrcsr n v => obtain rfl := hops; simp [decode, hcmd, encode]
  | push x y =>
    obtain ⟨⟨xb⟩, ⟨yb⟩⟩ := x, y
    obtain ⟨rfl, rfl⟩ := hops
    simp [decode, decodeNoCsr, hcmd, encode]
  | _ => simp [decode, decodeNoCsr, hcmd, encode]

theorem decode_eq_instr_iff (c : Command) (i : Instr) :
    decode c = .instr i ↔ c.cmd = (encode i).cmd ∧ i.OperandsOn c :=
  ⟨cmd_eq_of_decode, fun ⟨hcmd, hops⟩ => decode_of_cmd_eq hcmd hops⟩

/-- The words that are not refused by the decoder: none of the first three conditions of R101. -/
structure DecodableWord (w : Word32) : Prop where
  zero : cmdZero w = 0#20
  opcode : (cmdOp w).toNat < 8
  csrn : cmdCsrn w = 0#8 ∨ cmdOp w = 2#4 ∨ cmdOp w = 3#4

theorem decodableWord_encode (i : Instr) : DecodableWord (encode i).cmd := by
  cases i <;> constructor <;> simp [encode]

theorem exists_decode_eq_instr_iff (c : Command) :
    (∃ i, decode c = .instr i) ↔ DecodableWord c.cmd := by
  constructor
  · rintro ⟨i, h⟩
    exact (cmd_eq_of_decode h).1 ▸ decodableWord_encode i
  · rintro ⟨hzero, hop, hcsrn⟩
    unfold decode
    rw [if_pos hzero]
    split
    case h_3 | h_4 => exact ⟨_, rfl⟩
    case h_9 => interval_cases (cmdOp c.cmd).toNat <;> contradiction
    all_goals
      rename_i hnum
      have h0 : cmdCsrn c.cmd = 0#8 :=
        hcsrn.resolve_right (by rintro (h | h) <;> simp [h] at hnum)
      exact ⟨_, decodeNoCsr_eq_instr_iff.2 ⟨h0, rfl⟩⟩

theorem exists_decode_eq_illegal_iff (c : Command) :
    (∃ e, decode c = .illegal e) ↔ ¬ DecodableWord c.cmd := by
  rw [← exists_decode_eq_instr_iff]
  cases decode c <;> simp

end Sys2Proof
end

section
/-! The encodings: O1, O2, O4, O5. -/

namespace Sys2Proof

/-- Settles O2, by the decoder's equivalence for each constructor. -/
theorem decodeReadsExactlyTheTakenFields : Obligations.DecodeReadsExactlyTheTakenFields := by
  intro c i
  cases i <;> exact decode_eq_instr_iff c _

/-- Settles O1: an encoding holds its own word and operands. -/
theorem decodeInvertsEncode : Obligations.DecodeInvertsEncode := by
  intro i
  have hops : i.OperandsOn (encode i) := by
    cases i with
    | wrcsr n v => exact rfl
    | push x y => exact ⟨rfl, rfl⟩
    | _ => trivial
  exact decode_of_cmd_eq rfl hops

/-- A triple written out that is an encoding. -/
theorem decode_of_encode_eq {c : Command} {i : Instr} (h : encode i = c) : decode c = .instr i :=
  h ▸ decodeInvertsEncode i

/-- Settles O4: each written-out triple is the encoding of its command. -/
theorem writtenOutWordsDecode : Obligations.WrittenOutWordsDecode :=
  ⟨decode_of_encode_eq rfl, decode_of_encode_eq rfl, decode_of_encode_eq rfl,
    decode_of_encode_eq rfl, decode_of_encode_eq rfl, decode_of_encode_eq rfl,
    decode_of_encode_eq rfl, decode_of_encode_eq rfl⟩

/-! ## The format tag (R95): the fields of what `pack` puts together -/

theorem tagModf_packTag (mod : BitVec 4) (de : BitVec 2) (cont : Word32) :
    tagModf (packTag mod de cont) = mod := by
  have hcont : (cont &&& 0xFFFFF0CF#32).extractLsb' 8 4 = 0#4 := by
    rw [BitVec.extractLsb'_and]
    exact BitVec.and_zero
  have hmod : (mod.setWidth 32 <<< 8).extractLsb' 8 4 = mod := by revert mod; decide
  have hde : (de.setWidth 32 <<< 4).extractLsb' 8 4 = 0#4 := by revert de; decide
  simp only [tagModf, packTag, BitVec.extractLsb'_or, hcont, hmod, hde, BitVec.zero_or,
    BitVec.or_zero]

theorem tagDef_packTag (mod : BitVec 4) (de : BitVec 2) (cont : Word32) :
    tagDef (packTag mod de cont) = de := by
  have hcont : (cont &&& 0xFFFFF0CF#32).extractLsb' 4 2 = 0#2 := by
    rw [BitVec.extractLsb'_and]
    exact BitVec.and_zero
  have hmod : (mod.setWidth 32 <<< 8).extractLsb' 4 2 = 0#2 := by revert mod; decide
  have hde : (de.setWidth 32 <<< 4).extractLsb' 4 2 = de := by revert de; decide
  simp only [tagDef, packTag, BitVec.extractLsb'_or, hcont, hmod, hde, BitVec.zero_or]

theorem tagCont_packTag (mod : BitVec 4) (de : BitVec 2) (cont : Word32) :
    tagCont (packTag mod de cont) = cont &&& 0xFFFFF0CF#32 := by
  have hmod : (mod.setWidth 32 <<< 8) &&& 0xFFFFF0CF#32 = 0#32 := by revert mod; decide
  have hde : (de.setWidth 32 <<< 4) &&& 0xFFFFF0CF#32 = 0#32 := by revert de; decide
  simp only [tagCont, packTag, BitVec.and_or_distrib_right, hmod, hde, BitVec.or_zero,
    BitVec.and_assoc, BitVec.and_self]

/-- Settles O5, field by field. -/
theorem formatTagUnpacksWhatWasPacked : Obligations.FormatTagUnpacksWhatWasPacked := by
  intro mod de cont tag
  refine ⟨rfl, rfl, ?_⟩
  rw [unpackTag, tagModf_packTag, tagDef_packTag, tagCont_packTag]

end Sys2Proof
end

section
/-! The opcode table: O3.  A row's mask covers the opcode and the zero bits, and the CSR number
where the command takes none (spec/30_encoding.md R98). -/

namespace Sys2Proof

theorem encodedRow (i : Instr) : Laws.EncodedRow.Statement i := by
  cases i with
  | nop => exact Laws.EncodedRow.nop
  | rst => exact Laws.EncodedRow.rst
  | wrcsr n v => exact Laws.EncodedRow.wrcsr n v
  | rdcsr n => exact Laws.EncodedRow.rdcsr n
  | check => exact Laws.EncodedRow.check
  | openStream => exact Laws.EncodedRow.openStream
  | push x y => exact Laws.EncodedRow.push x y
  | closeStream => exact Laws.EncodedRow.closeStream

theorem opcodeTable_nodup : opcodeTable.Nodup := by decide

theorem opcodeTable_opcode_injective :
    ∀ r ∈ opcodeTable, ∀ r' ∈ opcodeTable, cmdOp r.pattern = cmdOp r'.pattern → r = r' := by decide

theorem opcodeTable_opcode :
    ∀ r ∈ opcodeTable, cmdOp r.mask = BitVec.allOnes 4 ∧ (cmdOp r.pattern).toNat < 8 := by decide

theorem opcodeTable_zero :
    ∀ r ∈ opcodeTable, cmdZero r.mask = BitVec.allOnes 20 ∧ cmdZero r.pattern = 0#20 := by decide

theorem opcodeTable_csrn :
    ∀ r ∈ opcodeTable, (cmdCsrn r.mask = BitVec.allOnes 8 ∧ cmdCsrn r.pattern = 0#8) ∨
      cmdOp r.pattern = 2#4 ∨ cmdOp r.pattern = 3#4 := by decide

section Selects
variable {r : OpcodeRow} {w : Word32}

/-- A selected row fixes every field that its mask covers. -/
theorem extractLsb'_of_selects {k n : Nat} (h : r.selects w = true)
    (hmask : r.mask.extractLsb' k n = BitVec.allOnes n) :
    w.extractLsb' k n = r.pattern.extractLsb' k n := by
  rw [← of_decide_eq_true h, BitVec.extractLsb'_and, hmask, BitVec.and_allOnes]

theorem cmdOp_of_selects (hr : r ∈ opcodeTable) (h : r.selects w = true) :
    cmdOp w = cmdOp r.pattern :=
  extractLsb'_of_selects h (opcodeTable_opcode r hr).1

theorem decodableWord_of_selects (hr : r ∈ opcodeTable) (h : r.selects w = true) :
    DecodableWord w := by
  have hop := cmdOp_of_selects hr h
  obtain ⟨-, hlt⟩ := opcodeTable_opcode r hr
  obtain ⟨hmask, hzero⟩ := opcodeTable_zero r hr
  refine ⟨(extractLsb'_of_selects h hmask).trans hzero, hop ▸ hlt, ?_⟩
  rcases opcodeTable_csrn r hr with ⟨hmask, hcsrn⟩ | htaken
  · exact .inl ((extractLsb'_of_selects h hmask).trans hcsrn)
  · exact .inr (hop ▸ htaken)

/-- No other row selects the word, since the opcodes of the rows are different. -/
theorem filter_selects_eq_singleton (hr : r ∈ opcodeTable) (h : r.selects w = true) :
    opcodeTable.filter (fun r => r.selects w) = [r] := by
  have hunique : ∀ r' ∈ opcodeTable, r'.selects w = (r' == r) := by
    intro r' hr'
    rw [Bool.eq_iff_iff, beq_iff_eq]
    refine ⟨fun h' => opcodeTable_opcode_injective r' hr' r hr ?_, fun heq => heq ▸ h⟩
    rw [← cmdOp_of_selects hr' h', cmdOp_of_selects hr h]
  rw [List.filter_congr hunique, List.filter_beq, List.count_eq_one_of_mem opcodeTable_nodup hr]
  rfl

end Selects

/-- The rows' patterns cover exactly the words that decode. -/
theorem exists_selects_iff (c : Command) :
    (∃ r ∈ opcodeTable, r.selects c.cmd = true) ↔ DecodableWord c.cmd := by
  constructor
  · rintro ⟨r, hr, h⟩
    exact decodableWord_of_selects hr h
  · intro h
    obtain ⟨i, hi⟩ := (exists_decode_eq_instr_iff c).2 h
    obtain ⟨r, hr, -, hsel⟩ := encodedRow i
    exact ⟨r, hr, (cmd_eq_of_decode hi).1 ▸ hsel⟩

/-- Settles O3: the row of the encoding is the one row that selects the word. -/
theorem decoderAgreesWithOpcodeTable : Obligations.DecoderAgreesWithOpcodeTable := by
  constructor
  · intro c i hi
    obtain ⟨r, hr, hmnemonic, hsel⟩ := encodedRow i
    rw [← (cmd_eq_of_decode hi).1] at hsel
    exact ⟨r, filter_selects_eq_singleton hr hsel, hmnemonic⟩
  · intro c
    rw [exists_decode_eq_illegal_iff, ← exists_selects_iff, List.filter_eq_nil_iff]
    simp only [not_exists, not_and]

end Sys2Proof
end

section
/-! Refused commands: O7, O27. -/

namespace Sys2Proof.Machine

/-! ## Illegal command words (R101) -/

theorem step_of_illegal {s : State} {c : Command} {rest : List PortEvent} {e : DecodeError}
    (hp : s.port.pending = .command c :: rest) (hd : decode c = .illegal e) :
    step s = .next (s.taken rest).nak := by
  rw [step, transact, hp]
  simp only [runCommand, hd]

theorem exec_wrcsr_unassigned (s : State) {n : BitVec 8} (v : Word64) (h : csrAssigned n = false) :
    exec (.wrcsr n v) s = .next (s.responding 0x00000002#32 0#64 0#64) := by
  have hnone : Csr.ofNumber n = none := by simpa [csrAssigned_iff] using h
  change execWrcsr n v s = _
  simp only [execWrcsr, State.writeConfig, hnone, nak_eq]

/-- A decodable word on `WRCSR` or `RDCSR` is that command with the number in `CSRN`. -/
theorem decode_csr_command {c : Command} (hzero : cmdZero c.cmd = 0#20)
    (hop : cmdOp c.cmd = 2#4 ∨ cmdOp c.cmd = 3#4) :
    decode c = .instr (.wrcsr (cmdCsrn c.cmd) c.d0) ∨
      decode c = .instr (.rdcsr (cmdCsrn c.cmd)) := by
  rcases hop with hop | hop
  · exact .inl (decode_of_cmd_eq (eq_cmdWord hzero (congrArg _ hop) rfl) rfl)
  · exact .inr (decode_of_cmd_eq (eq_cmdWord hzero (congrArg _ hop) rfl) trivial)

/-- Settles O7: the decoder refuses the first three kinds of illegal words; a word of the fourth
kind decodes to an access of an unassigned CSR. -/
theorem stepAnswersNakToIllegalWord : Obligations.StepAnswersNakToIllegalWord := by
  intro s c rest hp hbad
  by_cases hword : DecodableWord c.cmd
  · obtain ⟨hzero, hop, hcsrn⟩ := hword
    rcases hbad with hbad | hbad | ⟨hnot2, hnot3, hbad⟩ | ⟨htaken, hbad⟩
    · exact absurd hop (not_lt.2 hbad)
    · exact absurd hzero hbad
    · rcases hcsrn with h | h | h
      exacts [absurd h hbad, absurd h hnot2, absurd h hnot3]
    · rcases decode_csr_command hzero htaken with hd | hd
      · exact (stepRunsTheDecodedCommand s c rest _ hp hd).trans (exec_wrcsr_unassigned _ _ hbad)
      · exact (stepRunsTheDecodedCommand s c rest _ hp hd).trans (exec_rdcsr_unassigned _ hbad)
  · obtain ⟨e, hd⟩ := (exists_decode_eq_illegal_iff c).2 hword
    rw [step_of_illegal hp hd, nak_eq]
    rfl

/-! ## What a command answered `NAK` has done (R97, R286) -/

/-- The command changed nothing and answered `NAK`, or answered something else. -/
def NakOrOther (s t : State) : Prop :=
  t = s.nak ∨ rspKind t.port.response.rsp ≠ ResponseKind.nak.code

/-- Every ending but `NAK` is an answer of another kind. -/
theorem nakOrOther_answer (s : State) {t : State} {k : ResponseKind} {n : BitVec 2} {v0 v1 : Word64}
    (hk : k ≠ .nak) : NakOrOther s (t.answer k n v0 v1) := by
  refine .inr ?_
  rw [State.answer_response, rspKind_rspWord]
  cases k with
  | nak => exact absurd rfl hk
  | _ => decide

theorem nakOrOther_checkWith (P : Params F64) (s : State) : NakOrOther s (checkWith P s) := by
  rcases checkWith_cases P s with
    ⟨-, heq⟩ | ⟨-, -, heq⟩ | ⟨-, -, heq⟩ | ⟨-, c, -, -, heq⟩ <;> rw [heq]
  · exact .inl rfl
  · exact .inl rfl
  · exact nakOrOther_answer s (by decide)
  · exact nakOrOther_answer s (by decide)

theorem nakOrOther_openWith (P : Params F64) (s : State) : NakOrOther s (openWith P s) := by
  rcases openWith_cases P s with
    ⟨-, heq⟩ | ⟨-, -, heq⟩ | ⟨-, -, heq⟩ | ⟨-, c, -, -, heq⟩ <;> rw [heq]
  · exact .inl rfl
  · exact .inl rfl
  · exact nakOrOther_answer s (by decide)
  · exact nakOrOther_answer s (by decide)

theorem nakOrOther_pushWith {P : Params F64} {i q : F64} {s t : State}
    (h : pushWith P i q s = .next t) : NakOrOther s t := by
  rcases pushWith_cases h with
    ⟨-, rfl⟩ | ⟨-, -, rfl⟩ | ⟨-, -, rfl⟩ | ⟨-, -, rfl⟩ | ⟨-, -, rfl⟩
  · exact .inl rfl
  · exact nakOrOther_answer s (by decide)
  · exact nakOrOther_answer s (by decide)
  · exact nakOrOther_answer s (by decide)
  · exact nakOrOther_answer s (by decide)

theorem nakOrOther_execWrcsr {n : BitVec 8} {v : Word64} {s t : State}
    (h : execWrcsr n v s = .next t) : NakOrOther s t := by
  rcases execWrcsr_cases n v s with ⟨heq, -⟩ | ⟨-, u, -, heq⟩
  all_goals obtain rfl := Host.Outcome.next.inj (heq.symm.trans h)
  · exact .inl rfl
  · exact nakOrOther_answer s (by decide)

theorem nakOrOther_execRdcsr {n : BitVec 8} {s t : State} (h : execRdcsr n s = .next t) :
    NakOrOther s t := by
  rcases execRdcsr_cases n s with ⟨-, heq⟩ | ⟨c, -, heq⟩
  all_goals obtain rfl := Host.Outcome.next.inj (heq.symm.trans h)
  · exact .inl rfl
  · exact nakOrOther_answer s (by decide)

theorem nakOrOther_execClose {s t : State} (h : execClose s = .next t) : NakOrOther s t := by
  rcases execClose_cases s with ⟨-, heq⟩ | ⟨-, heq⟩
  all_goals
    obtain rfl := Host.Outcome.next.inj (heq.symm.trans h)
    exact nakOrOther_answer s (by decide)

theorem nakOrOther_exec {s t : State} {i : Instr} (h : exec i s = .next t) : NakOrOther s t := by
  cases i with
  | nop => obtain rfl := Host.Outcome.next.inj h; exact nakOrOther_answer s (by decide)
  | rst => obtain rfl := Host.Outcome.next.inj h; exact nakOrOther_answer s (by decide)
  | wrcsr n v => exact nakOrOther_execWrcsr h
  | rdcsr n => exact nakOrOther_execRdcsr h
  | check => obtain rfl := Host.Outcome.next.inj h; exact nakOrOther_checkWith params s
  | openStream => obtain rfl := Host.Outcome.next.inj h; exact nakOrOther_openWith params s
  | push i q => exact nakOrOther_pushWith h
  | closeStream => exact nakOrOther_execClose h

/-- Settles O27: of the two ways a command can end, the other one is excluded. -/
theorem nakChangesNoState : Obligations.NakChangesNoState := by
  intro s t i h hnak
  rcases nakOrOther_exec h with rfl | hother
  · exact nak_eq s
  · exact absurd hnak hother

end Sys2Proof.Machine
end

section
/-! What `OPEN` latches of a wide-band FM configuration: O22.  The constants of R5 stand in the
latched formulas as the decimals of the rules (spec/47_facade_commands.md R257). -/

namespace Sys2Proof.Machine

@[simp] theorem params_consts : params.consts = documentConsts := rfl

@[simp] theorem params_num : params.num = hardwareNum := rfl

theorem judge_wideband {s : State} (hfs : 116000 ≤ s.fs.toNat) (hnch : s.nch = 2#32)
    (hmod : tagModf s.fmt = 5#4 ∨ tagModf s.fmt = 6#4) (hdef : tagDef s.fmt ≠ 3#2)
    (hwidth : widthLegal s.width = true) : judge documentConsts s = .status .ok := by
  have hrate : ¬ s.fs.toNat < documentConsts.wfmMinRate := not_lt.2 hfs
  have hfs0 : s.fs ≠ 0#32 := by intro h; simp [h] at hfs
  have hrule : hasNoRule (tagModf s.fmt) = false := by
    rcases hmod with h | h <;> rw [h] <;> decide
  simp [judge, hfs0, hnch, hrate, hrule, hdef, hwidth]

/-- `OPEN` of a closed block whose configuration is judged legal (R257). -/
theorem exec_openStream_of_judge_ok {s : State} (hs : s.ss = .closed)
    (hj : judge documentConsts s = .status .ok) :
    exec .openStream s = .next ((s.opened params).responding 0x00000000#32 0#64 0#64) := by
  change Host.Outcome.next (openWith params s) = _
  simp only [openWith, hs, params_consts, hj, ackValue_eq]

theorem deeTau_eq (de : BitVec 2) :
    deeTau documentConsts de = F64.lit (if de = 1#2 then 50 else 75) 1 := by
  rw [deeTau, tau50_eq, tau75_eq]
  split <;> rfl

/-- `DEP1` with the decimals of R176. -/
theorem deePole_eq (fs : Word32) (de : BitVec 2) :
    deePole f64 params fs de =
      F64.sub ⟨0#64⟩ (Config.numExp (F64.div (F64.sub ⟨0#64⟩ ⟨0x3FF0000000000000#64⟩)
        (F64.mul (F64.mul (F64.ofNat fs.toNat) (F64.lit (if de = 1#2 then 50 else 75) 1))
          (F64.lit 1 1000000)))) := by
  rw [← deeTau_eq]
  rfl

/-- `DEZ1` with the decimal of R176. -/
theorem deeZero_eq (dep1 : F64) :
    deeZero f64 documentConsts dep1 =
      F64.div (F64.add ⟨0x3FF0000000000000#64⟩ dep1) (F64.lit 5 1) := by
  rw [← deeDiv_eq]
  rfl

/-- `FMGAIN` with the decimals of R143. -/
theorem fmGain_eq (fs : Word32) :
    fmGain f64 documentConsts fs =
      if 300000 < fs.toNat
      then F64.mul (F64.lit 11 10) (F64.div (F64.ofNat fs.toNat) (F64.ofNat 300000))
      else F64.lit 11 10 := by
  rw [← gainTrim_eq]
  rfl

/-- `AGCINC` with the decimals of R211. -/
theorem agcRate_up_eq (fs : Word32) :
    agcRate f64 hardwareNum fs documentConsts.agcUpDbps =
      Config.numPow10 (F64.div (F64.lit 64 1) (F64.mul (F64.lit 20 1) (F64.ofNat fs.toNat))) := by
  rw [agcUpDbps_eq]
  rfl

/-- `AGCDEC` with the decimals of R211. -/
theorem agcRate_down_eq (fs : Word32) :
    agcRate f64 hardwareNum fs documentConsts.agcDownDbps =
      Config.numPow10 (F64.div (F64.sub ⟨0#64⟩ (F64.lit 12 1))
        (F64.mul (F64.lit 20 1) (F64.ofNat fs.toNat))) := by
  rw [agcDownDbps_eq]
  rfl

/-- What is latched of a `WFM` tag, the no-lowpass variant included (R94, R257). -/
theorem latch_of_wfm {fmt : Word32} (h : tagModf fmt = 5#4 ∨ tagModf fmt = 6#4) (fs : Word32)
    (width : F64) (lpfen : Bool) :
    latch f64 params fmt fs width lpfen =
      { mod := 5#4, de := tagDef fmt, nout := 2#2
        lpfon := lpfen && decide (tagModf fmt = 5#4)
        difflen := diffLength documentConsts fs
        fmgain := fmGain f64 documentConsts fs
        agcinc := agcRate f64 hardwareNum fs documentConsts.agcUpDbps
        agcdec := agcRate f64 hardwareNum fs documentConsts.agcDownDbps
        sgain := stereoGain f64 width
        dep1 := if tagDef fmt = 0#2 then f64.zero else deePole f64 params fs (tagDef fmt)
        dez1 := if tagDef fmt = 0#2 then f64.zero
          else deeZero f64 documentConsts (deePole f64 params fs (tagDef fmt)) } := by
  have hmod : effectiveMod (tagModf fmt) = 5#4 := by rcases h with h | h <;> rw [h] <;> decide
  have hlpf : decide (tagModf fmt ≠ 6#4) = decide (tagModf fmt = 5#4) := by
    rcases h with h | h <;> rw [h] <;> decide
  by_cases hde : tagDef fmt = 0#2 <;> simp [latch, hmod, hlpf, hde]

/-- Settles O22: the configuration is judged legal, and the latched values are those of R257 with
the constants as decimals. -/
theorem openLatchesWideband : Obligations.OpenLatchesWideband := by
  intro s hs hfs hnch hmod hdef hlo hhi z one rate de tau dep1
  have hwidth : widthLegal s.width = true := Bool.and_eq_true_iff.2 ⟨hlo, hhi⟩
  rw [exec_openStream_of_judge_ok hs (judge_wideband hfs hnch hmod hdef hwidth), State.opened,
    latch_of_wfm hmod, fmGain_eq, agcRate_up_eq, agcRate_down_eq, deeZero_eq, deePole_eq]
  rfl

end Sys2Proof.Machine
end

section
/-! The linear filters: O36, O37, O39, O40.  A ring pushed from reset answers, at each tap, the sample
that many places back in the list of pushes; the FIR convolver and the delay line read nothing else.
For the biquad, two steps carry the inputs and outputs of the last two samples into the state. -/

namespace Sys2Proof.Machine

section History
variable {F : Type} [DecidableEq F] (A : Arith F)

/-! ## What a ring holds after a list of pushes (R62) -/

omit [DecidableEq F] in
theorem ringTap_reset (n k : Nat) : ringTap A n (Ring.reset : Ring F) k = A.zero := rfl

theorem ringTap_ringPush_zero {n : Nat} {r : Ring F} (v : F) (hr : Memory.wf A n r.mem = true) :
    ringTap A n (ringPush A n r v) 0 = v := by
  simpa [ringTap] using memRead_ringPush_newest A v hr

theorem ringTap_ringPush_succ {n k : Nat} (r : Ring F) (v : F) (hk : k + 1 < n) :
    ringTap A n (ringPush A n r v) (k + 1) = ringTap A n r k := by
  simpa [ringTap] using memRead_ringPush_older A (r := r) v hk

theorem foldl_ringPush_wf {n : Nat} (hn : 0 < n) (xs : List F) :
    Memory.wf A n (xs.foldl (ringPush A n) Ring.reset).mem = true := by
  induction xs using List.reverseRecOn with
  | nil => exact Ring.reset_wf A n
  | append_singleton xs x ih =>
    rw [List.foldl_concat]
    exact (ringPush_keeps_form A hn _ x ih).1

/-- Within its length a ring remembers the pushes, the newest first, and `+0.0` before the first. -/
theorem ringTap_foldl_ringPush {n k : Nat} (hk : k < n) (xs : List F) :
    ringTap A n (xs.foldl (ringPush A n) Ring.reset) k = xs.reverse.getD k A.zero := by
  induction xs using List.reverseRecOn generalizing k with
  | nil => exact ringTap_reset A n k
  | append_singleton xs x ih =>
    rw [List.foldl_concat, List.reverse_concat]
    cases k with
    | zero => exact ringTap_ringPush_zero A x (foldl_ringPush_wf A hk xs)
    | succ k =>
      rw [ringTap_ringPush_succ A _ x hk, List.getD_cons_succ]
      exact ih (Nat.lt_of_succ_lt hk)

/-! ## The convolution sum (R126) -/

omit [DecidableEq F] in
theorem convolveFrom_eq_foldl_range (tap : Nat → F) (h : List F) (k0 : Nat) (acc : F) :
    convolveFrom A tap k0 acc h =
      (List.range h.length).foldl
        (fun acc k => A.add acc (A.mul (h.getD k A.zero) (tap (k0 + k)))) acc := by
  induction h generalizing k0 acc with
  | nil => rfl
  | cons a h ih =>
    simp [convolveFrom, ih, List.range_succ_eq_map, List.foldl_map, Nat.add_right_comm, Nat.add_assoc]

omit [DecidableEq F] in
/-- The sum only reads the taps that a coefficient stands against. -/
theorem convolve_eq_foldl_range {h : List F} {tap x : Nat → F}
    (htap : ∀ k < h.length, tap k = x k) :
    convolve A h tap =
      (List.range h.length).foldl (fun acc k => A.add acc (A.mul (h.getD k A.zero) (x k))) A.zero := by
  rw [convolve, convolveFrom_eq_foldl_range]
  refine List.foldl_ext _ _ _ fun acc k hk => ?_
  rw [Nat.zero_add, htap k (List.mem_range.mp hk)]

/-! ## The delay line (R130, R131) -/

theorem dlyStep_eq (P : Params F) (dl : Ring F) (x : F) :
    dlyStep A P dl x =
      (ringPush A P.mpxL dl x, ringTap A P.mpxL (ringPush A P.mpxL dl x) P.dlyD) := rfl

omit [DecidableEq F] in
/-- The centre tap of R131, in the words of R6. -/
theorem dlyD_eq (P : Params F) : P.dlyD = (P.mpxL - 1) / 2 := by
  rw [Params.mpxL]
  omega

omit [DecidableEq F] in
theorem dlyD_lt_mpxL (P : Params F) : P.dlyD < P.mpxL := by
  rw [Params.mpxL]
  omega

end History

/-- Settles O36: each tap that a coefficient stands against is the sample that many pushes back. -/
theorem firConvolvesItsHistory : Obligations.FirConvolvesItsHistory := by
  intro h xs _
  exact convolve_eq_foldl_range f64 fun _ hk => ringTap_foldl_ringPush f64 hk xs

/-- Settles O37: the centre tap lies within the ring, so it is the sample `DLY_D` pushes back. -/
theorem delayLineAnswersTheCentreTap : Obligations.DelayLineAnswersTheCentreTap := by
  intro P xs x
  have htap := ringTap_foldl_ringPush f64 (dlyD_lt_mpxL P) (xs ++ [x])
  rw [List.foldl_concat, List.reverse_concat] at htap
  simp only [dlyStep_eq, ← dlyD_eq]
  exact htap

/-! ## The biquad section (R120 to R122) -/

/-- Settles O39: `biqStep` is written in the order of R121, so the two sides agree by definition. -/
theorem biquadIsTransposedDirectForm : Obligations.BiquadIsTransposedDirectForm := by
  intro c s x
  rfl

section Ideal
variable (c : Biquad ℝ) (s : BiqState ℝ)

/-- The section over the reals, in the terms of R121. -/
theorem biqStep_ideal (x : ℝ) :
    biqStep ideal c s x =
      (⟨c.b1 * x - c.a1 * (c.b0 * x + s.z1) + s.z2, c.b2 * x - c.a2 * (c.b0 * x + s.z1)⟩,
        c.b0 * x + s.z1) := rfl

/-- The first output sees `z1` of the state it starts from. -/
theorem biqRun_ideal_first {xs : List ℝ} (h : 0 < xs.length) :
    (biqRun ideal c s xs).getD 0 0 = c.b0 * xs.getD 0 0 + s.z1 := by
  obtain _ | ⟨x, xs⟩ := xs
  · simp at h
  · simp [biqRun, biqStep_ideal]

/-- The second output sees `z2`, and the first input and output. -/
theorem biqRun_ideal_second {xs : List ℝ} (h : 1 < xs.length) :
    let ys := biqRun ideal c s xs
    ys.getD 1 0 = c.b0 * xs.getD 1 0 + c.b1 * xs.getD 0 0 - c.a1 * ys.getD 0 0 + s.z2 := by
  obtain _ | ⟨x, xs⟩ := xs
  · simp at h
  · have hx : 0 < xs.length := Nat.lt_of_succ_lt_succ h
    simp only [biqRun, List.getD_cons_succ, List.getD_cons_zero, biqRun_ideal_first c _ hx,
      biqStep_ideal]
    ring

/-- From the third output on nothing of the state at the start is left. -/
theorem biqRun_ideal_recurrence {xs : List ℝ} {n : Nat} (h : n + 2 < xs.length) :
    let ys := biqRun ideal c s xs
    ys.getD (n + 2) 0 = c.b0 * xs.getD (n + 2) 0 + c.b1 * xs.getD (n + 1) 0 + c.b2 * xs.getD n 0
      - c.a1 * ys.getD (n + 1) 0 - c.a2 * ys.getD n 0 := by
  induction n generalizing s xs with
  | zero =>
    obtain _ | ⟨x, xs⟩ := xs
    · simp at h
    · have hx : 1 < xs.length := Nat.lt_of_succ_lt_succ h
      simp only [biqRun, List.getD_cons_succ, List.getD_cons_zero, zero_add,
        biqRun_ideal_second c _ hx, biqStep_ideal]
      ring
  | succ n ih =>
    obtain _ | ⟨x, xs⟩ := xs
    · simp at h
    · exact ih _ (Nat.lt_of_succ_lt_succ h)

end Ideal

/-- Settles O40: the first two outputs are those of a zero state, and every later one has its whole
past in the lists. -/
theorem idealBiquadMeetsItsDifferenceEquation :
    Obligations.IdealBiquadMeetsItsDifferenceEquation := by
  intro c xs n hn
  obtain _ | _ | n := n
  · simpa using biqRun_ideal_first c ⟨0, 0⟩ hn
  · simpa using biqRun_ideal_second c ⟨0, 0⟩ hn
  · simpa using biqRun_ideal_recurrence c ⟨0, 0⟩ hn

end Sys2Proof.Machine
end

section
/-! What `OPEN` latches of a configuration that is not wide-band FM: O21 (spec/47_facade_commands.md
R256, R257). -/

namespace Sys2Proof.Machine

/-- The narrowband ordinals of R256 have a demodulation rule and are not `WFM` tags. -/
theorem narrowband_tag {mod : BitVec 4}
    (h : mod = 1#4 ∨ mod = 2#4 ∨ mod = 3#4 ∨ mod = 4#4 ∨ mod = 8#4) :
    isWfmTag mod = false ∧ hasNoRule mod = false := by
  rcases h with rfl | rfl | rfl | rfl | rfl <;> decide

theorem judge_narrowband {K : Consts F64} {s : State} (hfs : s.fs ≠ 0#32) (hnch : s.nch = 2#32)
    (hwfm : isWfmTag (tagModf s.fmt) = false) (hrule : hasNoRule (tagModf s.fmt) = false) :
    judge K s = .status .ok := by
  simp [judge, hfs, hnch, hwfm, hrule]

/-- Only the no-lowpass variant of `WFM` is normalised (R94). -/
theorem effectiveMod_of_not_wfm {mod : BitVec 4} (h : isWfmTag mod = false) :
    effectiveMod mod = mod := by
  have h6 : mod ≠ 6#4 := by rintro rfl; exact absurd h (by decide)
  rw [effectiveMod, if_neg h6]

/-- What is latched of a tag that is not `WFM`: everything that R257 does not assign keeps its reset
value. -/
theorem latch_of_not_wfm {F : Type} (A : Arith F) (P : Params F) {fmt : Word32}
    (h : isWfmTag (tagModf fmt) = false) (fs : Word32) (width : F) (lpfen : Bool) :
    latch A P fmt fs width lpfen =
      { Derived.reset A with
        mod := tagModf fmt
        nout := 1#2
        difflen := diffLength P.consts fs
        fmgain := fmGain A P.consts fs } := by
  have h5 : tagModf fmt ≠ 5#4 := fun hm => absurd h (by rw [hm]; decide)
  simp [latch, effectiveMod_of_not_wfm h, h5, Derived.reset]

/-- Settles O21: the configuration is judged legal, and the patterns and rates of the statement are
those the document's constants hold. -/
theorem openLatchesNarrowband : Obligations.OpenLatchesNarrowband := by
  intro s hs hfs hnch mod hmod hnarrow z
  obtain ⟨hwfm, hrule⟩ := narrowband_tag (hmod ▸ hnarrow)
  rw [exec_openStream_of_judge_ok hs (judge_narrowband hfs hnch hwfm hrule), State.opened,
    latch_of_not_wfm f64 params hwfm, ← hmod]
  rfl

end Sys2Proof.Machine
end

section
/-! The differentiator: O32, O38, O41.  `DIFF.STEP` is a push into the phase history followed by the
FIR convolution of the kernel against it, scaled by `FMGAIN` (spec/41_differentiator.md R145), so what
is known of a ring's taps and of the convolution sum decides what it answers. -/

namespace Sys2Proof.Machine

section Differentiator
variable {F : Type} (A : Arith F) (P : Params F)

/-- The kernel has one coefficient for each element of the phase history (R140, R141). -/
theorem length_kernelOf {n : BitVec 5} (h : n = 19#5 ∨ n = 9#5) :
    (kernelOf P n).length = n.toNat := by
  rcases h with rfl | rfl <;> simp [kernelOf]

/-- The sum only depends on the taps that a coefficient stands against. -/
theorem convolve_congr {h : List F} {tap tap' : Nat → F} (htap : ∀ k < h.length, tap k = tap' k) :
    convolve A h tap = convolve A h tap' := by
  rw [convolve_eq_foldl_range A htap, convolve_eq_foldl_range A fun _ _ => rfl]

variable [DecidableEq F] (E : Setup F)

/-- `PH[PHW - k]` before the index advances is tap `k` once it has (R62, R145). -/
theorem memRead_memWrite_eq_ringTap (n : Nat) (r : Ring F) (v : F) (k : Nat) :
    memRead A n (memWrite A n r.mem r.w v) ((r.w : Int) - k) = ringTap A n (ringPush A n r v) k := by
  rw [ringTap, (ringPush_spec A n r v).1]
  exact memRead_congr A _ (ringPush_index_sub_emod A n r v k).symm

/-- `DIFF.STEP` in terms of the filter primitives. -/
theorem diffStep_eq (ph : Ring F) (p : F) :
    diffStep A P E ph p =
      let ph' := ringPush A E.derived.difflen.toNat ph p
      (ph', A.mul E.derived.fmgain
        (firGet A E.derived.difflen.toNat (kernelOf P E.derived.difflen) ph')) := by
  simp only [diffStep, memRead_memWrite_eq_ringTap]
  rfl

/-- The last result after a list of phases is the convolution of the kernel with the history that
pushing all of them leaves. -/
theorem diffStep_foldl_snd (ps : List F) (ph : Ring F) (p : F) :
    (diffStep A P E (ps.foldl (fun r x => (diffStep A P E r x).1) ph) p).2 =
      A.mul E.derived.fmgain (firGet A E.derived.difflen.toNat (kernelOf P E.derived.difflen)
        ((ps ++ [p]).foldl (ringPush A E.derived.difflen.toNat) ph)) := by
  simp only [diffStep_eq, List.foldl_concat]

theorem foldl_ringPush_keeps_wf {n : Nat} (hn : 0 < n) {r : Ring F}
    (hr : Memory.wf A n r.mem = true) (xs : List F) :
    Memory.wf A n (xs.foldl (ringPush A n) r).mem = true := by
  induction xs generalizing r with
  | nil => exact hr
  | cons x xs ih => exact ih (ringPush_keeps_form A hn r x hr).1

/-- After `m` equal pushes the newest `m` taps hold that value, whatever the ring held before. -/
theorem ringTap_foldl_ringPush_replicate {n k m : Nat} (hn : k < n) (hm : k < m) {r : Ring F}
    (hr : Memory.wf A n r.mem = true) (c : F) :
    ringTap A n ((List.replicate m c).foldl (ringPush A n) r) k = c := by
  induction m generalizing k with
  | zero => exact absurd hm (Nat.not_lt_zero k)
  | succ m ih =>
    rw [List.replicate_succ', List.foldl_concat]
    cases k with
    | zero => exact ringTap_ringPush_zero A c (foldl_ringPush_keeps_wf A hn hr _)
    | succ k =>
      rw [ringTap_ringPush_succ A _ c hn]
      exact ih (Nat.lt_of_succ_lt hn) (Nat.lt_of_succ_lt_succ hm)

end Differentiator

/-- Settles O32: the arm of the dispatch for `NFM`, `FMD.STEP` and `DIFF.STEP` written out. -/
theorem nfmAnswersTheDifferentiatedPhase : Obligations.NfmAnswersTheDifferentiatedPhase := by
  intro s i q hs hm
  rw [exec_push_nfm i q hs hm]
  rfl

/-- Settles O38: each tap that a coefficient stands against is the phase that many steps back. -/
theorem differentiatorConvolvesThePhases : Obligations.DifferentiatorConvolvesThePhases := by
  intro P E ps p hlen
  rw [diffStep_foldl_snd, ← List.reverse_concat, ← length_kernelOf P hlen]
  exact congrArg (F64.mul E.derived.fmgain)
    (convolve_eq_foldl_range f64 fun _ hk => ringTap_foldl_ringPush f64 hk (ps ++ [p]))

/-! ## The ideal instance (R146) -/

/-- Equal taps leave the sum of the coefficients. -/
theorem convolveFrom_ideal_const (c : ℝ) (h : List ℝ) (k0 : Nat) (acc : ℝ) :
    convolveFrom ideal (fun _ => c) k0 acc h = acc + c * h.sum := by
  induction h generalizing k0 acc with
  | nil => simp [convolveFrom]
  | cons a h ih =>
    rw [convolveFrom, ih, List.sum_cons]
    change acc + a * c + c * h.sum = _
    ring

theorem convolve_ideal_const {h : List ℝ} {tap : Nat → ℝ} {c : ℝ}
    (htap : ∀ k < h.length, tap k = c) : convolve ideal h tap = c * h.sum := by
  rw [convolve_congr ideal htap, convolve, convolveFrom_ideal_const]
  exact zero_add _

/-- `N` equal phases fill the history, so the last result sees no other. -/
theorem diffStep_ideal_const (P : Params ℝ) (E : Setup ℝ) (r : Ring ℝ) (c : ℝ)
    (hlen : E.derived.difflen = 19#5 ∨ E.derived.difflen = 9#5)
    (hr : Memory.wf ideal E.derived.difflen.toNat r.mem = true) :
    (diffStep ideal P E
      ((List.replicate (E.derived.difflen.toNat - 1) c).foldl
        (fun r x => (diffStep ideal P E r x).1) r) c).2 =
      E.derived.fmgain * c * (kernelOf P E.derived.difflen).sum := by
  have hpos : 0 < E.derived.difflen.toNat := by rcases hlen with h | h <;> rw [h] <;> decide
  have hsum : firGet ideal E.derived.difflen.toNat (kernelOf P E.derived.difflen)
      ((List.replicate E.derived.difflen.toNat c).foldl
        (ringPush ideal E.derived.difflen.toNat) r) = c * (kernelOf P E.derived.difflen).sum := by
    refine convolve_ideal_const fun k hk => ?_
    rw [length_kernelOf P hlen] at hk
    exact ringTap_foldl_ringPush_replicate ideal hk hk hr c
  rw [diffStep_foldl_snd, ← List.replicate_succ', Nat.sub_add_cancel hpos, hsum]
  exact (mul_assoc _ _ _).symm

/-- Settles O41: the closed form, whose last factor is 0 for a kernel that sums to zero. -/
theorem idealDifferentiatorRejectsAConstant : Obligations.IdealDifferentiatorRejectsAConstant := by
  intro P E r c hlen hr _ y
  have hy : y = E.derived.fmgain * c * (kernelOf P E.derived.difflen).sum :=
    diffStep_ideal_const P E r c hlen hr
  exact ⟨hy, fun hkernel => by rw [hy, hkernel, mul_zero]⟩

end Sys2Proof.Machine
end

section
/-! The envelope and the sideband demodulators: O30, O31.  Both are arms of the dispatch of `PUSH`;
`AMD.STEP` is evaluated at the two pairs with an exact result (spec/42_demodulator.md R165, R166). -/

namespace Sys2Proof.Machine

/-- `AMD.STEP` goes through the magnitude of the pair and then scales it. -/
theorem amdStep_of_magnitude {i q m : F64}
    (h : F64.sqrt (F64.add (F64.mul i i) (F64.mul q q)) = m) :
    amdStep f64 documentConsts i q = F64.mul documentConsts.amScale m :=
  congrArg (F64.mul documentConsts.amScale) h

/-- Sum, square root and scaling each leave `+0.0` itself. -/
theorem amdStep_zero : amdStep f64 documentConsts ⟨0#64⟩ ⟨0#64⟩ = ⟨0#64⟩ := by
  have henergy : F64.add (F64.mul ⟨0#64⟩ ⟨0#64⟩) (F64.mul ⟨0#64⟩ ⟨0#64⟩) = ⟨0#64⟩ := by
    decide +kernel
  have hmagnitude : F64.sqrt (F64.add (F64.mul ⟨0#64⟩ ⟨0#64⟩) (F64.mul ⟨0#64⟩ ⟨0#64⟩)) = ⟨0#64⟩ := by
    rw [henergy]
    exact F64.sqrt_of_zero (by decide) (by decide)
  rw [amdStep_of_magnitude hmagnitude]
  decide +kernel

/-- The magnitude of `(1, 0)` is one exactly, so the scale is answered without a rounding. -/
theorem amdStep_one :
    amdStep f64 documentConsts ⟨0x3FF0000000000000#64⟩ ⟨0#64⟩ = ⟨0x3FE6A0902DE00D1B#64⟩ := by
  have hmagnitude : F64.sqrt (F64.add
      (F64.mul ⟨0x3FF0000000000000#64⟩ ⟨0x3FF0000000000000#64⟩) (F64.mul ⟨0#64⟩ ⟨0#64⟩)) =
      ⟨0x3FF0000000000000#64⟩ := by decide +kernel
  rw [amdStep_of_magnitude hmagnitude]
  decide +kernel

/-- Settles O30: the arm of the dispatch for `AM`, and the two exact results. -/
theorem amAnswersTheScaledEnvelope : Obligations.AmAnswersTheScaledEnvelope :=
  ⟨fun _ i q => exec_push_am i q, amdStep_zero, amdStep_one⟩

/-- Settles O31: the arm the three modulations share, where `SSB.STEP` is the first operand. -/
theorem sidebandPassesTheInPhaseSample : Obligations.SidebandPassesTheInPhaseSample :=
  fun _ i q => exec_push_ssb i q

end Sys2Proof.Machine
end

section
/-! The de-emphasis: O42, O43.  A channel's step is a biquad over the latched coefficients
(spec/43_deemphasis.md R177, R178); the frame rules of the units show that nothing else in a `PUSH`
reaches the de-emphasis registers (R179). -/

namespace Sys2Proof.Machine

/-! ## One channel (R177, R178) -/

/-- The left channel is its own biquad. -/
theorem deeStep_left {F : Type} (A : Arith F) (P : Params F) (D : Derived F) (r : DeeRegs F) (x : F) :
    deeStep A P D r .left x =
      ({ r with l := (biqStep A (deeCoeffs A P D) r.l x).1 },
        (biqStep A (deeCoeffs A P D) r.l x).2) := rfl

/-- The right channel is its own biquad. -/
theorem deeStep_right {F : Type} (A : Arith F) (P : Params F) (D : Derived F) (r : DeeRegs F) (x : F) :
    deeStep A P D r .right x =
      ({ r with r := (biqStep A (deeCoeffs A P D) r.r x).1 },
        (biqStep A (deeCoeffs A P D) r.r x).2) := rfl

/-- The coefficients of both channels, `b1` by the parameter `DEE_B1_IS_Z1` (R177). -/
theorem deeCoeffs_params (D : Derived F64) :
    deeCoeffs f64 params D =
      ⟨D.dez1, if Config.deeB1IsZ1 then D.dez1 else ⟨0#64⟩, ⟨0#64⟩, D.dep1, ⟨0#64⟩⟩ := rfl

/-- Settles O42: the rule of the biquad at the coefficients of R177, once for each channel. -/
theorem deemphasisFiltersEachChannelApart : Obligations.DeemphasisFiltersEachChannelApart := by
  intro D r x z b1
  constructor
  · rw [deeStep_left, deeCoeffs_params, biquadIsTransposedDirectForm]
  · rw [deeStep_right, deeCoeffs_params, biquadIsTransposedDirectForm]

/-! ## De-emphasis off (R179) -/

section Frames
variable {F : Type} [DecidableEq F] (A : Arith F) (P : Params F) {E : Setup F} (d : Datapath F)

theorem fmdStep_dee (i q : F) : (fmdStep A P E d i q).1.dee = d.dee :=
  (congrArg Datapath.dee (fmdStep_frame A P E d i q) :)

theorem mpxStep_dee (x : F) : (mpxStep A P E d x).1.dee = d.dee :=
  (congrArg Datapath.dee (mpxStep_frame A P E d x) :)

/-- Neither the discriminator nor the decoder reaches the registers, and nothing else runs. -/
theorem wfmFrame_dee_of_de_eq_zero (h : E.derived.de = 0#2) (i q : F) :
    (wfmFrame A P E d i q).1.dee = d.dee := by
  rw [wfmFrame_of_de_eq_zero A P d h, mpxStep_dee, fmdStep_dee]

end Frames

/-- Of the arms of `PUSH` only the two that demodulate FM write the datapath at all. -/
theorem exec_push_dee_of_de_eq_zero {s t : State} {i q : F64} (hde : s.derived.de = 0#2)
    (h : exec (.push i q) s = .next t) : t.dp.dee = s.dp.dee := by
  rcases pushWith_cases (P := params) h with
    ⟨-, rfl⟩ | ⟨-, -, rfl⟩ | ⟨-, -, rfl⟩ | ⟨-, -, rfl⟩ | ⟨-, -, rfl⟩
  · rfl
  · exact fmdStep_dee f64 params s.dp (E := s.setup) i q
  · rfl
  · rfl
  · exact wfmFrame_dee_of_de_eq_zero f64 params s.dp (E := s.setup) hde i q

/-- Without de-emphasis a `WFM` stream answers the two samples of `MPX.STEP`. -/
theorem exec_push_response_of_de_eq_zero {s t : State} {i q : F64} (hde : s.derived.de = 0#2)
    (hs : s.ss = .opened) (hm : s.derived.mod = 5#4) (h : exec (.push i q) s = .next t) :
    let x := fmdStep f64 params s.setup s.dp i q
    let m := mpxStep f64 params s.setup x.1 x.2
    t.port.response = ⟨0x00000008#32, m.2.1.bits, m.2.2.bits⟩ := by
  obtain rfl := Host.Outcome.next.inj ((exec_push_wfm i q hs hm).symm.trans h)
  rw [wfmFrame_of_de_eq_zero f64 params s.dp (E := s.setup) hde]
  rfl

/-- Settles O43: the registers are kept by every arm of `PUSH`, and the response is the `WFM` arm's. -/
theorem deemphasisIsBypassedWhenOff : Obligations.DeemphasisIsBypassedWhenOff :=
  fun _ _ _ _ hde h => ⟨exec_push_dee_of_de_eq_zero hde h,
    fun hs hm => exec_push_response_of_de_eq_zero hde hs hm h⟩

end Sys2Proof.Machine
end

section
/-! The wrap: O46, O47.  What is left of a phase without its whole turns, over the binary64 values
and over the reals (spec/44_nco_pll.md R188). -/

namespace Sys2Proof

/-- A value that is not finite stays a NaN or becomes one. -/
theorem F64.isNaN_wrap {t : F64} (h : t.isFinite = false) : (F64.wrap t).isNaN = true := by
  rcases F64.wrap_cases t with ⟨hnan, heq⟩ | ⟨-, heq⟩ | ⟨hfin, -⟩ | ⟨hfin, -⟩
  · rw [heq, hnan]
  · rw [heq, F64.isNaN_nanResult]
  all_goals simp [h] at hfin

end Sys2Proof

namespace Sys2Proof.Machine

/-- Settles O46: the wrap takes `F64.turns` whole turns off a finite phase, and nothing else. -/
theorem wrapIsExactAndInRange : Obligations.WrapIsExactAndInRange := by
  intro t
  refine ⟨fun hfin => ?_, F64.isNaN_wrap⟩
  obtain ⟨hfinite, hint⟩ := F64.toInt_wrap hfin
  obtain ⟨hlo, hhi⟩ := (F64.wrap_in_range t).resolve_left
    (by simp [F64.not_nan_of_finite hfinite])
  exact ⟨hfinite, hlo, hhi, t.turns, hint⟩

/-- The ideal wrap is Mathlib's reduction to the half-open interval of one turn from `-pi`. -/
theorem ideal_wrap_eq_toIocMod (t : ℝ) :
    ideal.wrap t = toIocMod Real.two_pi_pos (-Real.pi) t := by
  have hdiv : toIocDiv Real.two_pi_pos (-Real.pi) t = ⌈(t - Real.pi) / (2 * Real.pi)⌉ := by
    rw [toIocDiv_eq_neg_floor, ← Int.ceil_neg, ← neg_div]
    congr 2
    ring
  rw [toIocMod, hdiv, zsmul_eq_mul, mul_comm]
  rfl

/-- Settles O47: the reduction is the one value of the interval in the class of `t`. -/
theorem idealWrapIsTheUniqueRepresentative : Obligations.IdealWrapIsTheUniqueRepresentative := by
  intro t u
  have hend : -Real.pi + 2 * Real.pi = Real.pi := by ring
  simp only [ideal_wrap_eq_toIocMod, toIocMod_eq_iff, hend, Set.mem_Ioc, and_assoc, zsmul_eq_mul,
    sub_eq_iff_eq_add']

end Sys2Proof.Machine
end

section
/-! The oscillator and the loop: O44, O45.  The registers after an advance and after a sync
(spec/44_nco_pll.md R187 to R193). -/

namespace Sys2Proof.Machine

/-- Detect and filter: the mixer, then one biquad on the output of the other (R190). -/
theorem ppdStep_eq {F : Type} (A : Arith F) (P : Params F) (cosc : F) (r : PpdRegs F) (p : F) :
    ppdStep A P cosc r p =
      let u := biqStep A P.lf1 r.lf1 (A.mul cosc p)
      let e := biqStep A P.lf2 r.lf2 u.2
      ⟨u.1, e.1, e.2⟩ := rfl

/-- A sync is an advance, a detection with the cosine the advance left, and a loop update with the
error the detection left (R187, R191). -/
theorem ncoSync_eq {F : Type} (A : Arith F) (P : Params F) (fs : Word32) (n : NcoRegs F)
    (r : PpdRegs F) (p : F) :
    ncoSync A P fs n r p =
      let n' := ncoAdvance A P.num fs n
      let r' := ppdStep A P n'.cosc r p
      ({ n' with ftrack := A.add n.fcenter (A.mul P.consts.pllK r'.perr) }, r') := rfl

/-- Settles O44: the order of the sync, with the loop constant and the 1 of the tripled output as
the literals of the rules. -/
theorem syncAdvancesDetectsAndCloses : Obligations.SyncAdvancesDetectsAndCloses := by
  intro fs n r p theta cosc sinc u e n'
  refine ⟨?_, rfl, ?_⟩
  · simp only [ncoSync_eq, ppdStep_eq, params_consts, pllK_eq]
    rfl
  · rw [← f64_one_eq]
    rfl

/-- The cache holds the cosine and the sine of the new phase (R189). -/
theorem ncoAdvance_ideal_cache (fs : Word32) (n : NcoRegs ℝ) :
    (ncoAdvance ideal idealNum fs n).cosc = Real.cos (ncoAdvance ideal idealNum fs n).theta ∧
      (ncoAdvance ideal idealNum fs n).sinc = Real.sin (ncoAdvance ideal idealNum fs n).theta :=
  ⟨rfl, rfl⟩

theorem ncoX2_ideal (n : NcoRegs ℝ) : ncoX2 ideal n = 2 * n.cosc * n.sinc := by
  simp [ncoX2, ideal]

theorem ncoX3_ideal (n : NcoRegs ℝ) : ncoX3 ideal n = (4 * n.cosc * n.cosc - 1) * n.sinc := by
  simp [ncoX3, ideal]

/-- Settles O45, by the double and the triple angle formulas. -/
theorem idealHarmonicsAreMultiplesOfThePhase :
    Obligations.IdealHarmonicsAreMultiplesOfThePhase := by
  intro fs n n'
  obtain ⟨hcos, hsin⟩ := ncoAdvance_ideal_cache fs n
  constructor
  · rw [ncoX2_ideal, hcos, hsin, Real.sin_two_mul]
    ring
  · rw [ncoX3_ideal, hcos, hsin, Real.sin_three_mul]
    linear_combination 4 * Real.sin n'.theta * Real.sin_sq_add_cos_sq n'.theta

end Sys2Proof.Machine
end

section
/-! The decoder with a pilot and without: O53, O54 (spec/46_mpx_decoder.md R227 to R231,
spec/44_nco_pll.md R194, R195). -/

namespace Sys2Proof.Machine

section Frames
variable {F : Type} [DecidableEq F] (A : Arith F) (P : Params F) (E : Setup F) (d : Datapath F)

/-- The gain control on a frame's band-passed pilot: its registers after the frame and the gained
pilot (R227, R212). -/
def mpxPilot (x : F) : AgcRegs F × F :=
  agcStep A P.consts E.derived d.agc
    (firGet A P.mpxL P.hPilot.toList (ringPush A P.mpxL d.pbh x))

/-- The gained pilot uses the gain from before the frame (R212). -/
theorem mpxPilot_gained (x : F) :
    (mpxPilot A P E d x).2 =
      A.mul d.agc.gain (firGet A P.mpxL P.hPilot.toList (ringPush A P.mpxL d.pbh x)) := rfl

/-- The two forms of a frame, by the presence after its AGC update (R227, R229). -/
theorem mpxStep_cases (x : F) :
    let d' := { mpxFeed A P d x with agc := (mpxPilot A P E d x).1 }
    let mono := (dlyStep A P d.dl x).2
    ((mpxPilot A P E d x).1.pres = .present ∧
      mpxStep A P E d x = mpxStereo A P E d' mono (mpxPilot A P E d x).2) ∨
    ((mpxPilot A P E d x).1.pres ≠ .present ∧ mpxStep A P E d x = (d', mono, mono)) := by
  intro d' mono
  by_cases h : (mpxPilot A P E d x).1.pres = .present
  · exact .inl ⟨h, if_pos h⟩
  · exact .inr ⟨h, if_neg h⟩

theorem mpxStep_agc (x : F) : (mpxStep A P E d x).1.agc = (mpxPilot A P E d x).1 :=
  (congrArg Datapath.agc (mpxStep_frame A P E d x) :)

/-- The stereo steps run the loop once; the final lowpass does not reach it. -/
theorem mpxStereo_oscillator (mono p : F) :
    ((mpxStereo A P E d mono p).1.nco, (mpxStereo A P E d mono p).1.ppd) =
      ncoSync A P E.fs d.nco d.ppd p := by
  rw [mpxStereo, mpxLowpass_frame]

/-- Without a pilot the oscillator is frozen (R195). -/
theorem mpxStep_oscillator_frozen {x : F} (h : (mpxStep A P E d x).1.agc.pres ≠ .present) :
    (mpxStep A P E d x).1.nco = d.nco ∧ (mpxStep A P E d x).1.ppd = d.ppd := by
  rw [mpxStep_agc] at h
  rcases mpxStep_cases A P E d x with ⟨hpres, -⟩ | ⟨-, heq⟩
  · exact absurd hpres h
  · rw [heq]
    exact ⟨rfl, rfl⟩

/-- With a pilot the loop runs once, on the gained pilot (R195). -/
theorem mpxStep_oscillator_synced {x : F} (h : (mpxStep A P E d x).1.agc.pres = .present) :
    ((mpxStep A P E d x).1.nco, (mpxStep A P E d x).1.ppd) =
      ncoSync A P E.fs d.nco d.ppd (mpxPilot A P E d x).2 := by
  rw [mpxStep_agc] at h
  rcases mpxStep_cases A P E d x with ⟨-, heq⟩ | ⟨hpres, -⟩
  · rw [heq]
    exact mpxStereo_oscillator A P E _ _ _
  · exact absurd h hpres

/-- A `WFM` frame leaves the oscillator, the detector and the gain control as the decoder does: the
discriminator before it and the de-emphasis after it do not reach them. -/
theorem wfmFrame_decoder (i q : F) :
    let x := fmdStep A P E d i q
    (wfmFrame A P E d i q).1.nco = (mpxStep A P E x.1 x.2).1.nco ∧
      (wfmFrame A P E d i q).1.ppd = (mpxStep A P E x.1 x.2).1.ppd ∧
      (wfmFrame A P E d i q).1.agc = (mpxStep A P E x.1 x.2).1.agc := by
  have hframe := wfmFrame_frame A P E d i q
  exact ⟨(congrArg Datapath.nco hframe :), (congrArg Datapath.ppd hframe :),
    (congrArg Datapath.agc hframe :)⟩

end Frames

/-- Settles O53: the stereo form of the frame, with the final lowpass on or off, and the side
scaling as the literal of R230. -/
theorem stereoFrameRebuildsLeftAndRight : Obligations.StereoFrameRebuildsLeftAndRight := by
  intro E d x pbh sbh agc hpres mono sync side left right d'
  have hstereo : mpxStep f64 params E d x = mpxLowpass f64 params E d' left right := by
    rcases mpxStep_cases f64 params E d x with ⟨-, heq⟩ | ⟨hmono, -⟩
    · rw [heq, mpxStereo, mpxSide, params_consts, sideScaling_eq]
      rfl
    · exact absurd hpres hmono
  rw [hstereo, mpxLowpass]
  rfl

/-- A `PUSH` after which the pilot is not present leaves the oscillator and the loop alone: only the
`WFM` arm reaches them, and its decoder leaves them frozen. -/
theorem exec_push_oscillator_frozen {s t : State} {i q : F64} (h : exec (.push i q) s = .next t)
    (hpres : t.dp.agc.pres ≠ .present) : t.dp.nco = s.dp.nco ∧ t.dp.ppd = s.dp.ppd := by
  rcases pushWith_cases (P := params) h with
    ⟨-, rfl⟩ | ⟨-, -, rfl⟩ | ⟨-, -, rfl⟩ | ⟨-, -, rfl⟩ | ⟨-, -, rfl⟩
  · exact ⟨rfl, rfl⟩
  · exact ⟨rfl, rfl⟩
  · exact ⟨rfl, rfl⟩
  · exact ⟨rfl, rfl⟩
  · obtain ⟨hnco, hppd, hagc⟩ := wfmFrame_decoder f64 params s.setup s.dp i q
    simp only [State.deliverTwo_dp, hagc] at hpres
    simp only [State.deliverTwo_dp, hnco, hppd]
    exact mpxStep_oscillator_frozen f64 params s.setup _ hpres

/-- A `PUSH` to an open `WFM` stream after which the pilot is present runs the loop once. -/
theorem exec_push_oscillator_synced {s t : State} {i q : F64} (h : exec (.push i q) s = .next t)
    (hpres : t.dp.agc.pres = .present) (hs : s.ss = .opened) (hm : s.derived.mod = 5#4) :
    let x := fmdStep f64 params s.setup s.dp i q
    (t.dp.nco, t.dp.ppd) =
      ncoSync f64 params s.fs s.dp.nco s.dp.ppd (mpxPilot f64 params s.setup x.1 x.2).2 := by
  obtain rfl := Host.Outcome.next.inj ((exec_push_wfm i q hs hm).symm.trans h)
  obtain ⟨hnco, hppd, hagc⟩ := wfmFrame_decoder f64 params s.setup s.dp i q
  have hpresent := (congrArg AgcRegs.pres hagc).symm.trans hpres
  exact (congrArg₂ Prod.mk hnco hppd).trans
    (mpxStep_oscillator_synced f64 params s.setup _ hpresent)

/-- Settles O54, by the arm of `PUSH` that decodes stereo. -/
theorem oscillatorRunsOnlyWithAPilot : Obligations.OscillatorRunsOnlyWithAPilot :=
  fun _ _ _ _ h => ⟨exec_push_oscillator_frozen h, exec_push_oscillator_synced h⟩

end Sys2Proof.Machine
end

section
/-! The gain control: O48 to O51 (spec/45_agc.md R212 to R214). -/

namespace Sys2Proof

theorem F64.lt_irrefl (a : F64) : F64.lt a a = false := by simp [F64.lt]

theorem F64.lt_trans {a b c : F64} (hab : F64.lt a b = true) (hbc : F64.lt b c = true) :
    F64.lt a c = true := by
  simp only [F64.lt, Bool.and_eq_true, decide_eq_true_eq] at hab hbc ⊢
  obtain ⟨⟨ha, -⟩, hab⟩ := hab
  obtain ⟨⟨-, hc⟩, hbc⟩ := hbc
  exact ⟨⟨ha, hc⟩, hab.trans hbc⟩

end Sys2Proof

namespace Sys2Proof.Machine

/-! ## The running maximum -/

/-- The peak after a frame of magnitude `a`; a NaN magnitude does not raise it and a NaN peak stays
(R212, R215). -/
def runningMax (m a : F64) : F64 := if F64.lt m a then a else m

theorem agcPeak_eq (g : AgcRegs F64) (p : F64) :
    agcPeak f64 g p = ⟨g.gain, runningMax g.peak (F64.abs p), g.pres⟩ := by
  unfold agcPeak runningMax
  change (if F64.lt g.peak (F64.abs p) = true then _ else _) = _
  split <;> rfl

theorem runningMax_of_lt {m a : F64} (h : F64.lt m a = true) : runningMax m a = a := if_pos h

theorem runningMax_of_not_lt {m a : F64} (h : F64.lt m a = false) : runningMax m a = m :=
  if_neg (by simp [h])

/-- The maximum does not fall below a value that it was not below. -/
theorem runningMax_not_lt {m c : F64} (a : F64) (hm : F64.lt m c = false) :
    F64.lt (runningMax m a) c = false := by
  cases hma : F64.lt m a
  · rwa [runningMax_of_not_lt hma]
  · rw [runningMax_of_lt hma, ← Bool.not_eq_true]
    exact fun hac => Bool.false_ne_true (hm.symm.trans (F64.lt_trans hma hac))

/-- The maximum does not rise above a value that neither operand is above. -/
theorem not_lt_runningMax {m a c : F64} (hm : F64.lt c m = false) (ha : F64.lt c a = false) :
    F64.lt c (runningMax m a) = false := by
  unfold runningMax
  split
  · exact ha
  · exact hm

/-- The peak after the frames `rs` at an unchanging gain. -/
def peakAfter (gain m : F64) (rs : List F64) : F64 :=
  rs.foldl (fun m r => runningMax m (F64.abs (F64.mul gain r))) m

/-- What the running maximum keeps in each frame, the peak keeps over all of them. -/
theorem peakAfter_induction {gain m : F64} {rs : List F64} (motive : F64 → Prop) (hm : motive m)
    (hstep : ∀ m, motive m → ∀ r ∈ rs, motive (runningMax m (F64.abs (F64.mul gain r)))) :
    motive (peakAfter gain m rs) :=
  List.foldlRecOn rs _ hm hstep

theorem peakAfter_of_not_lt {gain m : F64} {rs : List F64}
    (h : ∀ r ∈ rs, F64.lt m (F64.abs (F64.mul gain r)) = false) : peakAfter gain m rs = m :=
  peakAfter_induction (· = m) rfl fun _ hm r hr => by rw [hm, runningMax_of_not_lt (h r hr)]

/-! ## One frame -/

section Step
variable (K : Consts F64) (D : Derived F64)

/-- A frame's answer and its branches in their order of priority: they test the gain from before the
frame and the peak that the frame has raised (R212, R213). -/
theorem agcStep_eq (g : AgcRegs F64) (r : F64) :
    let p := F64.mul g.gain r
    let peak := runningMax g.peak (F64.abs p)
    agcStep f64 K D g r =
      (if F64.le K.pilotMaxGain g.gain then ⟨K.pilotMaxGain, peak, .notPresent⟩
        else if F64.lt peak K.stableLo then ⟨F64.mul g.gain D.agcinc, peak, g.pres⟩
        else if F64.lt K.stableHi peak then
          ⟨F64.mul g.gain D.agcdec, F64.mul peak D.agcdec, g.pres⟩
        else ⟨g.gain, peak, .present⟩, p) := by
  intro p peak
  exact congrArg (fun g' => (agcUpdate f64 K D g', p)) (agcPeak_eq g p)

/-- Branch 1: the clamp. -/
theorem agcStep_of_clamped {g : AgcRegs F64} (r : F64) (h : F64.le K.pilotMaxGain g.gain = true) :
    (agcStep f64 K D g r).1 =
      ⟨K.pilotMaxGain, runningMax g.peak (F64.abs (F64.mul g.gain r)), .notPresent⟩ := by
  rw [agcStep_eq, if_pos h]

/-- The closed band of branch 4; a NaN is in it, as no comparison shows it outside (R215). -/
def StableBand (m : F64) : Prop := F64.lt m K.stableLo = false ∧ F64.lt K.stableHi m = false

theorem StableBand.runningMax {K : Consts F64} {m a : F64} (hm : StableBand K m)
    (ha : F64.lt K.stableHi a = false) : StableBand K (runningMax m a) :=
  ⟨runningMax_not_lt a hm.1, not_lt_runningMax hm.2 ha⟩

/-- Branch 4: the stable band. -/
theorem agcStep_of_stable {g : AgcRegs F64} {r : F64} (hg : F64.le K.pilotMaxGain g.gain = false)
    (hm : StableBand K g.peak) (hr : F64.lt K.stableHi (F64.abs (F64.mul g.gain r)) = false) :
    (agcStep f64 K D g r).1 =
      ⟨g.gain, runningMax g.peak (F64.abs (F64.mul g.gain r)), .present⟩ := by
  obtain ⟨hlo, hhi⟩ := hm.runningMax hr
  rw [agcStep_eq, if_neg (ne_true_of_eq_false hg), if_neg (ne_true_of_eq_false hlo),
    if_neg (ne_true_of_eq_false hhi)]

/-! ## Any number of frames -/

/-- The registers after the frames `rs`. -/
def agcRun (g : AgcRegs F64) (rs : List F64) : AgcRegs F64 :=
  rs.foldl (fun g r => (agcStep f64 K D g r).1) g

theorem agcRun_cons (g : AgcRegs F64) (r : F64) (rs : List F64) :
    agcRun K D g (r :: rs) = agcRun K D (agcStep f64 K D g r).1 rs := rfl

/-- The registers that branch 1 leaves, with a peak that has not fallen below `m`. -/
structure AgcRegs.Latched (m : F64) (g : AgcRegs F64) : Prop where
  gain : g.gain = K.pilotMaxGain
  pres : g.pres = .notPresent
  peak : F64.lt g.peak m = false

theorem agcStep_latched {m : F64} {g : AgcRegs F64} (r : F64)
    (hg : F64.le K.pilotMaxGain g.gain = true) (hm : F64.lt g.peak m = false) :
    AgcRegs.Latched K m (agcStep f64 K D g r).1 := by
  rw [agcStep_of_clamped K D r hg]
  exact ⟨rfl, rfl, runningMax_not_lt _ hm⟩

/-- The clamped gain still meets the clamp's condition, so branch 1 latches (R214 item 1). -/
theorem agcRun_latched (hmax : F64.le K.pilotMaxGain K.pilotMaxGain = true) {m : F64}
    {g : AgcRegs F64} (h : g.Latched K m) (rs : List F64) : (agcRun K D g rs).Latched K m :=
  List.foldlRecOn rs _ h fun _ hg r _ =>
    agcStep_latched K D r (hg.gain.symm ▸ hmax) hg.peak

/-- Branch 4 runs again in every frame that does not leave the band upwards (R214 item 2). -/
theorem agcRun_of_present {gain : F64} (hg : F64.le K.pilotMaxGain gain = false) {rs : List F64} :
    (∀ r ∈ rs, F64.lt K.stableHi (F64.abs (F64.mul gain r)) = false) →
    ∀ {m : F64}, StableBand K m →
      agcRun K D ⟨gain, m, .present⟩ rs = ⟨gain, peakAfter gain m rs, .present⟩ := by
  induction rs with
  | nil => exact fun _ _ _ => rfl
  | cons r rs ih =>
    intro hrs m hm
    obtain ⟨hr, hrest⟩ := List.forall_mem_cons.mp hrs
    rw [agcRun_cons, agcStep_of_stable (g := ⟨gain, m, .present⟩) K D hg hm hr,
      ih hrest (hm.runningMax hr)]
    rfl

/-- The first of the frames declares the pilot present, whatever the presence was. -/
theorem agcRun_of_stable {g : AgcRegs F64} (hg : F64.le K.pilotMaxGain g.gain = false)
    (hm : StableBand K g.peak) {rs : List F64} (hne : rs ≠ [])
    (hrs : ∀ r ∈ rs, F64.lt K.stableHi (F64.abs (F64.mul g.gain r)) = false) :
    agcRun K D g rs = ⟨g.gain, peakAfter g.gain g.peak rs, .present⟩ := by
  obtain ⟨r, rest, rfl⟩ := List.exists_cons_of_ne_nil hne
  obtain ⟨hr, hrest⟩ := List.forall_mem_cons.mp hrs
  rw [agcRun_cons, agcStep_of_stable K D hg hm hr,
    agcRun_of_present K D hg hrest (hm.runningMax hr)]
  rfl

end Step

/-- Settles O48: a frame at the constants of R216. -/
theorem agcTakesTheFirstBranchThatApplies : Obligations.AgcTakesTheFirstBranchThatApplies :=
  agcStep_eq documentConsts

/-- Settles O49: the first frame clamps, and 15.0 is itself at the clamp. -/
theorem agcLatchesAtTheClamp : Obligations.AgcLatchesAtTheClamp := by
  intro D g rs hne hg
  obtain ⟨r, rest, rfl⟩ := List.exists_cons_of_ne_nil hne
  have hfirst := agcStep_latched documentConsts D r hg (F64.lt_irrefl g.peak)
  obtain ⟨hgain, hpres, hpeak⟩ := agcRun_latched documentConsts D (by decide) hfirst rest
  exact ⟨hgain, hpres, hpeak⟩

/-- Settles O50: the running maximum of magnitudes up to 1.05 does not leave the band. -/
theorem agcStaysStableWhileTheSignalDoesNotGrow :
    Obligations.AgcStaysStableWhileTheSignalDoesNotGrow := by
  intro D g rs hne hg hlo hhi hrs
  have hband : StableBand documentConsts g.peak := ⟨hlo, hhi⟩
  have hafter : StableBand documentConsts (peakAfter g.gain g.peak rs) :=
    peakAfter_induction (StableBand documentConsts) hband fun _ hm r hr => hm.runningMax (hrs r hr)
  exact ⟨agcRun_of_stable documentConsts D hg hband hne hrs, hafter.1, hafter.2,
    peakAfter_of_not_lt⟩

/-! ## The presence -/

section Presence
variable {F : Type} (A : Arith F)

/-- Branches 2 and 3 keep the presence; branches 1 and 4 decide it (R213). -/
theorem agcStep_pres_ne_unknown (K : Consts F) (D : Derived F) {g : AgcRegs F} (r : F)
    (h : g.pres ≠ .unknown) : (agcStep A K D g r).1.pres ≠ .unknown := by
  have hpeak : (agcPeak A g (A.mul g.gain r)).pres ≠ .unknown := by
    rwa [(agcPeak_frame A g _).2]
  change (agcUpdate A K D (agcPeak A g (A.mul g.gain r))).pres ≠ .unknown
  rcases agcUpdate_cases A K D (agcPeak A g (A.mul g.gain r)) with
    ⟨-, heq⟩ | ⟨-, -, heq⟩ | ⟨-, -, -, heq⟩ | ⟨-, -, -, heq⟩ <;> rw [heq]
  · exact PilotPresence.noConfusion
  · exact hpeak
  · exact hpeak
  · exact PilotPresence.noConfusion

/-- A `WFM` frame reaches the presence through one step of the gain control only. -/
theorem wfmFrame_pres_ne_unknown [DecidableEq F] (P : Params F) (E : Setup F) {d : Datapath F}
    (i q : F) (h : d.agc.pres ≠ .unknown) : (wfmFrame A P E d i q).1.agc.pres ≠ .unknown := by
  obtain ⟨-, -, hagc⟩ := wfmFrame_decoder A P E d i q
  have hfmd : (fmdStep A P E d i q).1.agc = d.agc :=
    (congrArg Datapath.agc (fmdStep_frame A P E d i q) :)
  rw [hagc, mpxStep_agc]
  exact agcStep_pres_ne_unknown A P.consts E.derived _ (hfmd ▸ h)

end Presence

/-- Settles O51: only the `WFM` arm of `PUSH` reaches the gain control. -/
theorem presenceNeverReturnsToUnknown : Obligations.PresenceNeverReturnsToUnknown := by
  intro s t i q h hpres
  rcases pushWith_cases (P := params) h with
    ⟨-, rfl⟩ | ⟨-, -, rfl⟩ | ⟨-, -, rfl⟩ | ⟨-, -, rfl⟩ | ⟨-, -, rfl⟩
  · exact hpres
  · exact hpres
  · exact hpres
  · exact hpres
  · exact wfmFrame_pres_ne_unknown f64 params s.setup i q hpres

end Sys2Proof.Machine
end

section
/-! The decoder without a pilot, and the stereo matrix over the reals: O52, O55
(spec/46_mpx_decoder.md R226 to R230). -/

namespace Sys2Proof.Machine

/-- Settles O52: the mono form of the frame; feeding the delay line and the two histories is a push
into each. -/
theorem monoFrameCollapsesToTheDelayLine : Obligations.MonoFrameCollapsesToTheDelayLine := by
  intro E d x pbh agc hpres mono
  rcases mpxStep_cases f64 params E d x with ⟨hpresent, -⟩ | ⟨-, heq⟩
  · exact absurd hpresent hpres
  · rw [heq]
    rfl

section Ideal
variable (E : Setup ℝ) (mono side : ℝ)

theorem mpxLeft_ideal :
    mpxLeft ideal E mono side = E.derived.sgain * (mono + E.width * side) := rfl

theorem mpxRight_ideal :
    mpxRight ideal E mono side = E.derived.sgain * (mono - E.width * side) := rfl

theorem stereoGain_ideal (width : ℝ) : stereoGain ideal width = 1 / (1 + width) := rfl

/-- The side enters the two channels with opposite signs, so it cancels in their sum (R230). -/
theorem mpxLeft_add_mpxRight_ideal :
    mpxLeft ideal E mono side + mpxRight ideal E mono side = 2 * E.derived.sgain * mono := by
  rw [mpxLeft_ideal, mpxRight_ideal]
  ring

end Ideal

/-- Settles O55: at full width the gain is one half (R226), which undoes the sum and the difference
of `l + r` and `l - r`. -/
theorem idealStereoMatrixRecoversTheChannels :
    Obligations.IdealStereoMatrixRecoversTheChannels := by
  refine ⟨mpxLeft_add_mpxRight_ideal, fun E l r hwidth hgain => ?_⟩
  have hhalf : E.derived.sgain = 1 / 2 := by
    rw [hgain, stereoGain_ideal, hwidth, one_add_one_eq_two]
  rw [mpxLeft_ideal, mpxRight_ideal, hhalf, hwidth]
  constructor <;> ring

end Sys2Proof.Machine
end

section
/-! The commands without a judgement and a step of the block: O8, O13, O14, O15, O24
(spec/47_facade_commands.md R251, R252, R258, R259; spec/70_reset_and_hazards.md R298, R310). -/

namespace Sys2Proof.Machine

/-- Settles O14. -/
theorem nopOnlyAnswersAck : Obligations.NopOnlyAnswersAck :=
  fun s => congrArg Host.Outcome.next (ack_eq s)

/-- Settles O15: the reset keeps the host's side of the ports, and the answer is `ACK`. -/
theorem rstResetsTheBlock : Obligations.RstResetsTheBlock :=
  fun s => congrArg Host.Outcome.next (ack_eq s.resetBlock)

theorem exec_closeStream_opened {s : State} (hs : s.ss = .opened) :
    exec .closeStream s = .next s.discarded.ack := by
  rcases execClose_cases s with ⟨-, heq⟩ | ⟨hc, -⟩
  · exact heq
  · rw [hs] at hc; cases hc

theorem exec_closeStream_closed {s : State} (hs : s.ss = .closed) :
    exec .closeStream s = .next s.ack := by
  rcases execClose_cases s with ⟨ho, -⟩ | ⟨-, heq⟩
  · rw [hs] at ho; cases ho
  · exact heq

/-- Settles O24: the discarded stream is what `RST` leaves of it, the configuration and `STATUS`
being kept. -/
theorem closeDiscardsTheStream : Obligations.CloseDiscardsTheStream := by
  refine ⟨fun s hs => ?_, fun s hs => ?_⟩
  · rw [exec_closeStream_opened hs, ack_eq]
    rfl
  · rw [exec_closeStream_closed hs, ack_eq]

/-! ## Steps -/

theorem step_of_idle {s : State} (hp : s.port.pending = []) : step s = .next s := by
  rw [step, transact, hp]

theorem step_of_resetPin {s : State} {rest : List PortEvent}
    (hp : s.port.pending = .resetPin :: rest) : step s = .next (s.taken rest).resetBlock := by
  rw [step, transact, hp]

/-- Settles O8. -/
theorem stepWithoutACommand : Obligations.StepWithoutACommand :=
  ⟨fun _ => step_of_idle, fun _ _ => step_of_resetPin⟩

/-- A push is refused by no state of the invariant: an open stream has latched a modulation that has
a demodulation rule (R256, R258). -/
theorem State.Inv.exec_push_answers {s : State} (h : s.Inv) (i q : F64) :
    ∃ t, exec (.push i q) s = .next t := by
  cases hs : s.ss with
  | closed => exact ⟨_, exec_push_closed i q hs⟩
  | opened =>
    obtain ⟨d, rsp, v0, v1, ys, hpush, -⟩ := exec_push_delivers (h.configured hs) hs i q
    exact ⟨_, hpush⟩

/-- Every command of a state of the invariant is answered (R280, R287). -/
theorem State.Inv.exec_answers {s : State} (h : s.Inv) (i : Instr) : ∃ t, exec i s = .next t := by
  cases i with
  | nop => exact ⟨_, rfl⟩
  | rst => exact ⟨_, rfl⟩
  | wrcsr n v =>
    rcases execWrcsr_cases n v s with ⟨heq, -⟩ | ⟨-, t, -, heq⟩
    · exact ⟨_, heq⟩
    · exact ⟨_, heq⟩
  | rdcsr n =>
    rcases execRdcsr_cases n s with ⟨-, heq⟩ | ⟨c, -, heq⟩
    · exact ⟨_, heq⟩
    · exact ⟨_, heq⟩
  | check => exact ⟨_, rfl⟩
  | openStream => exact ⟨_, rfl⟩
  | push i q => exact h.exec_push_answers i q
  | closeStream =>
    rcases execClose_cases s with ⟨-, heq⟩ | ⟨-, heq⟩
    · exact ⟨_, heq⟩
    · exact ⟨_, heq⟩

/-- Settles O13, by the next thing at the port: only a command could stop the step, and the state
that has taken it off the port meets the invariant too. -/
theorem stepNeverStops : Obligations.StepNeverStops := by
  intro s h
  match hp : s.port.pending with
  | [] => exact ⟨_, step_of_idle hp⟩
  | .resetPin :: rest => exact ⟨_, step_of_resetPin hp⟩
  | .command c :: rest =>
    cases hd : decode c with
    | illegal e => exact ⟨_, step_of_illegal hp hd⟩
    | instr i =>
      rw [stepRunsTheDecodedCommand s c rest i hp hd]
      exact (h.with_port _).exec_answers i

end Sys2Proof.Machine
end

section
/-! The configuration check: O19, O20 (spec/47_facade_commands.md R255 to R257). -/

namespace Sys2Proof.Machine

/-! ## The verdict (R256) -/

theorem isWfmTag_iff (mod : BitVec 4) : isWfmTag mod = true ↔ mod = 5#4 ∨ mod = 6#4 := by
  simp [isWfmTag]

theorem hasNoRule_iff (mod : BitVec 4) :
    hasNoRule mod = true ↔ mod = 0#4 ∨ mod = 7#4 ∨ 9 ≤ mod.toNat := by
  simp [hasNoRule, or_assoc]

theorem widthLegal_iff (w : F64) :
    widthLegal w = true ↔
      F64.le ⟨0x0000000000000000#64⟩ w = true ∧ F64.le w ⟨0x3FF0000000000000#64⟩ = true :=
  Bool.and_eq_true_iff

/-- The verdict of R256 as one chain of conditions; the three grounds for `Unsupported` are one
condition in it. -/
theorem judge_eq (s : State) :
    judge documentConsts s =
      if s.fs = 0#32 then .status .unrecognizedFormat
      else if s.nch ≠ 2#32 then .status .channelCountMismatch
      else if isWfmTag (tagModf s.fmt) = true ∧ s.fs.toNat < 116000 then .status .sampleRateTooLow
      else if hasNoRule (tagModf s.fmt) = true ∨ isWfmTag (tagModf s.fmt) = true ∧
        (tagDef s.fmt = 3#2 ∨ ¬ widthLegal s.width = true) then .unsupported
      else .status .ok := by
  have hmin : documentConsts.wfmMinRate = 116000 := rfl
  simp only [judge, hmin, and_or_left, ite_or, Bool.and_eq_true, decide_eq_true_eq,
    Bool.not_eq_true', Bool.not_eq_true]

/-- What the three errors of R281 have found. -/
theorem judge_error {s : State} {c : Status} (h : judge documentConsts s = .status c)
    (hc : c ≠ .ok) :
    (c = .unrecognizedFormat ∧ s.fs = 0#32) ∨ (c = .sampleRateTooLow ∧ s.fs.toNat < 116000) ∨
      (c = .channelCountMismatch ∧ s.nch ≠ 2#32) := by
  rw [judge_eq] at h
  split_ifs at h with hfs hnch hrate
  · exact .inl ⟨(Verdict.status.inj h).symm, hfs⟩
  · exact .inr (.inr ⟨(Verdict.status.inj h).symm, hnch⟩)
  · exact .inr (.inl ⟨(Verdict.status.inj h).symm, hrate.2⟩)
  · exact absurd (Verdict.status.inj h).symm hc

/-! ## `CHECK` by the verdict (R255) -/

section Check
variable {s : State}

theorem exec_check_opened (hs : s.ss = .opened) :
    exec .check s = .next (s.responding 0x00000002#32 0#64 0#64) := by
  change Host.Outcome.next (checkWith params s) = _
  simp only [checkWith, hs, nak_eq]

theorem exec_check_of_unsupported (hs : s.ss = .closed)
    (hj : judge documentConsts s = .unsupported) :
    exec .check s = .next (s.responding 0x00000002#32 0#64 0#64) := by
  change Host.Outcome.next (checkWith params s) = _
  simp only [checkWith, hs, params_consts, hj, nak_eq]

theorem exec_check_of_judge_ok (hs : s.ss = .closed) (hj : judge documentConsts s = .status .ok) :
    exec .check s =
      .next (State.responding { s with status := .ok } 0x00000000#32 0#64 0#64) := by
  change Host.Outcome.next (checkWith params s) = _
  simp only [checkWith, hs, params_consts, hj, ackValue_eq]

theorem exec_check_of_judge_error {c : Status} (hs : s.ss = .closed)
    (hj : judge documentConsts s = .status c) (hc : c ≠ .ok) :
    exec .check s = .next
      (State.responding { s with status := c } 0x00000001#32 (c.code.setWidth 64) 0#64) := by
  change Host.Outcome.next (checkWith params s) = _
  cases c with
  | ok => exact absurd rfl hc
  | _ => simp only [checkWith, hs, params_consts, hj, raise_eq]

end Check

theorem StreamState.ne_opened_iff (x : StreamState) : x ≠ .opened ↔ x = .closed := by
  cases x <;> decide

/-- Settles O19: the conditions of the statement are those of the verdict, and each verdict has its
answer. -/
theorem checkJudgesInOrder : Obligations.CheckJudgesInOrder := by
  intro s mod wfm unsupported
  split
  next hs => exact exec_check_opened hs
  next hs =>
    have hj := judge_eq s
    simp only [isWfmTag_iff, hasNoRule_iff, widthLegal_iff, or_assoc] at hj
    have hs := (StreamState.ne_opened_iff s.ss).1 hs
    split_ifs at hj ⊢
    · exact exec_check_of_judge_error hs hj (by decide)
    · exact exec_check_of_judge_error hs hj (by decide)
    · exact exec_check_of_judge_error hs hj (by decide)
    · exact exec_check_of_unsupported hs hj
    · exact exec_check_of_judge_ok hs hj

/-- `OPEN` and `CHECK` differ in what they do with an accepted configuration only (R257). -/
theorem openWith_eq_checkWith {P : Params F64} {s : State} (h : judge P.consts s ≠ .status .ok) :
    openWith P s = checkWith P s := by
  unfold openWith checkWith
  cases s.ss with
  | opened => rfl
  | closed =>
    cases hj : judge P.consts s with
    | unsupported => rfl
    | status c =>
      cases c with
      | ok => exact absurd hj h
      | _ => rfl

/-- Settles O20: a verdict that `CHECK` does not answer with `ACK` is not `OK`, and `CHECK` leaves
the stream state alone. -/
theorem openFailsAsCheckDoes : Obligations.OpenFailsAsCheckDoes := by
  intro s t hs h hrsp
  obtain rfl := Host.Outcome.next.inj h
  have hj : judge params.consts s ≠ .status .ok := by
    intro hj
    rw [Host.Outcome.next.inj (exec_check_of_judge_ok hs hj)] at hrsp
    exact hrsp rfl
  refine ⟨congrArg Host.Outcome.next (openWith_eq_checkWith hj), ?_⟩
  rcases checkWith_cases params s with
    ⟨-, heq⟩ | ⟨-, -, heq⟩ | ⟨-, -, heq⟩ | ⟨-, c, -, -, heq⟩ <;> rw [heq]
  all_goals exact hs

end Sys2Proof.Machine
end

section
/-! Writes of the configuration, and the table of stream states: O16, O23, O28
(spec/47_facade_commands.md R250, R253; spec/60_exceptions.md R281, R290). -/

namespace Sys2Proof.Machine

/-! ## The numbers of the configuration CSRs (R26) -/

theorem Csr.number_of_ofNumber {n : BitVec 8} {c : Csr} (h : Csr.ofNumber n = some c) :
    c.number = n :=
  beq_iff_eq.1 (List.find?_some (p := fun c : Csr => c.number == n) h)

/-- A configuration write takes the numbers up to 4 only. -/
theorem writeConfig_number_le {s t : State} {n : BitVec 8} {v : Word64}
    (h : s.writeConfig n v = some t) : n.toNat ≤ 4 := by
  rcases writeConfig_cases h with ⟨hn, -⟩ | ⟨hn, -⟩ | ⟨hn, -⟩ | ⟨hn, -⟩ | ⟨hn, -⟩
  all_goals
    rw [← Csr.number_of_ofNumber hn]
    decide

theorem config_number_cases {n : BitVec 8} (h : n.toNat ≤ 4) :
    n = Csr.fmt.number ∨ n = Csr.fs.number ∨ n = Csr.nch.number ∨ n = Csr.width.number ∨
      n = Csr.lpfen.number := by
  revert n
  decide

/-- A configuration write takes every number up to 4. -/
theorem exists_writeConfig (s : State) {n : BitVec 8} (v : Word64) (h : n.toNat ≤ 4) :
    ∃ t, s.writeConfig n v = some t := by
  rcases config_number_cases h with rfl | rfl | rfl | rfl | rfl
  · exact ⟨_, writeConfig_fmt s v⟩
  · exact ⟨_, writeConfig_fs s v⟩
  · exact ⟨_, writeConfig_nch s v⟩
  · exact ⟨_, writeConfig_width s v⟩
  · exact ⟨_, writeConfig_lpfen s v⟩

theorem exec_wrcsr_stores {s t : State} {v : Word64} (c : Csr) (hs : s.ss = .closed)
    (hw : s.writeConfig c.number v = some t) :
    exec (.wrcsr c.number v) s = .next (t.responding 0x00000000#32 0#64 0#64) := by
  rw [exec_wrcsr_closed hs hw, ack_eq]

/-- Settles O16: one equation per configuration CSR; a number above 4 is none of them, and an open
stream takes no write. -/
theorem wrcsrWritesTheConfiguration : Obligations.WrcsrWritesTheConfiguration := by
  intro s v
  refine ⟨fun hs => ⟨exec_wrcsr_stores .fmt hs (writeConfig_fmt s v),
    exec_wrcsr_stores .fs hs (writeConfig_fs s v), exec_wrcsr_stores .nch hs (writeConfig_nch s v),
    exec_wrcsr_stores .width hs (writeConfig_width s v),
    exec_wrcsr_stores .lpfen hs (writeConfig_lpfen s v)⟩, fun n hn => ?_⟩
  rcases execWrcsr_cases n v s with ⟨heq, -⟩ | ⟨hs, t, hw, -⟩
  · exact heq.trans (congrArg _ (nak_eq s))
  · rcases hn with hn | ho
    · exact absurd (writeConfig_number_le hw) (not_le.2 hn)
    · rw [hs] at ho; cases ho

/-! ## The kind of each answer (R97, R250) -/

/-- `KIND` of the last response. -/
def State.kind (s : State) : BitVec 2 := rspKind s.port.response.rsp

@[simp] theorem State.kind_answer (s : State) (k : ResponseKind) (n : BitVec 2) (v0 v1 : Word64) :
    (s.answer k n v0 v1).kind = k.code := rspKind_rspWord k n

section Kinds
variable (s : State)

@[simp] theorem State.kind_ack : s.ack.kind = 0#2 := s.kind_answer _ _ _ _

@[simp] theorem State.kind_ackValue (v : Word64) : (s.ackValue v).kind = 0#2 :=
  s.kind_answer _ _ _ _

@[simp] theorem State.kind_nak : s.nak.kind = 2#2 := s.kind_answer _ _ _ _

@[simp] theorem State.kind_raise (c : Status) : (s.raise c).kind = 1#2 :=
  State.kind_answer _ _ _ _ _

@[simp] theorem State.kind_deliverOne (y : F64) : (s.deliverOne y).kind = 0#2 :=
  State.kind_answer _ _ _ _ _

@[simp] theorem State.kind_deliverTwo (l r : F64) : (s.deliverTwo l r).kind = 0#2 :=
  State.kind_answer _ _ _ _ _

end Kinds

section Acceptance
variable {s t : State}

/-- `WRCSR` is accepted by a closed block for the five configuration CSRs. -/
theorem wrcsr_acceptance {n : BitVec 8} {v : Word64} (h : exec (.wrcsr n v) s = .next t) :
    t.kind = (if s.ss = .closed ∧ n.toNat ≤ 4 then 0#2 else 2#2) ∧ t.ss = s.ss := by
  rcases execWrcsr_cases n v s with ⟨heq, hwhy⟩ | ⟨hs, u, hw, heq⟩
  all_goals obtain rfl := Host.Outcome.next.inj (heq.symm.trans h)
  · have hno : ¬ (s.ss = .closed ∧ n.toNat ≤ 4) := by
      rintro ⟨hs, hn⟩
      obtain ⟨u, hw⟩ := exists_writeConfig s v hn
      simp [hs, hw] at hwhy
    rw [if_neg hno]
    exact ⟨s.kind_nak, rfl⟩
  · rw [if_pos ⟨hs, writeConfig_number_le hw⟩]
    refine ⟨u.kind_ack, ?_⟩
    rcases writeConfig_cases hw with ⟨-, rfl⟩ | ⟨-, rfl⟩ | ⟨-, rfl⟩ | ⟨-, rfl⟩ | ⟨-, rfl⟩
    all_goals rfl

/-- `RDCSR` is accepted in either stream state for an assigned number. -/
theorem rdcsr_acceptance {n : BitVec 8} (h : exec (.rdcsr n) s = .next t) :
    t.kind = (if csrAssigned n then 0#2 else 2#2) ∧ t.ss = s.ss := by
  rw [csrAssigned_iff]
  rcases execRdcsr_cases n s with ⟨hn, heq⟩ | ⟨c, hn, heq⟩
  all_goals
    obtain rfl := Host.Outcome.next.inj (heq.symm.trans h)
    simp [hn]

/-- `CHECK` is refused by an open stream and answered in any way by a closed block. -/
theorem check_acceptance (h : exec .check s = .next t) :
    (s.ss = .opened ∧ t.kind = 2#2 ∨
      s.ss = .closed ∧ (t.kind = 0#2 ∨ t.kind = 1#2 ∨ t.kind = 2#2)) ∧ t.ss = s.ss := by
  obtain rfl := Host.Outcome.next.inj h
  rcases checkWith_cases params s with
    ⟨hs, heq⟩ | ⟨hs, -, heq⟩ | ⟨hs, -, heq⟩ | ⟨hs, c, -, -, heq⟩ <;> rw [heq] <;> simp [hs]

/-- `OPEN` is refused by an open stream; a closed block opens or answers an error or a refusal. -/
theorem openStream_acceptance (h : exec .openStream s = .next t) :
    (s.ss = .opened ∧ t.kind = 2#2 ∧ t.ss = .opened) ∨
      (s.ss = .closed ∧ (t.kind = 0#2 ∧ t.ss = .opened ∨
        (t.kind = 1#2 ∨ t.kind = 2#2) ∧ t.ss = .closed)) := by
  obtain rfl := Host.Outcome.next.inj h
  rcases openWith_cases params s with
    ⟨hs, heq⟩ | ⟨hs, -, heq⟩ | ⟨hs, -, heq⟩ | ⟨hs, c, -, -, heq⟩ <;> rw [heq] <;> simp [hs]

/-- `PUSH` is refused by a closed block and answered with one or two samples by an open stream. -/
theorem push_acceptance {i q : F64} (h : exec (.push i q) s = .next t) :
    (s.ss = .closed ∧ t.kind = 2#2 ∨ s.ss = .opened ∧ t.kind = 0#2 ∧
      (rspCount t.port.response.rsp = 1#2 ∨ rspCount t.port.response.rsp = 2#2)) ∧ t.ss = s.ss := by
  rcases pushWith_cases (P := params) h with
    ⟨hs, rfl⟩ | ⟨hs, -, rfl⟩ | ⟨hs, -, rfl⟩ | ⟨hs, -, rfl⟩ | ⟨hs, -, rfl⟩
  all_goals simp [hs]

/-- `CLOSE` is accepted in either stream state and leaves a closed block (R259). -/
theorem closeStream_acceptance (h : exec .closeStream s = .next t) :
    t.kind = 0#2 ∧ t.ss = .closed := by
  rcases execClose_cases s with ⟨-, heq⟩ | ⟨hs, heq⟩
  all_goals obtain rfl := Host.Outcome.next.inj (heq.symm.trans h)
  · exact ⟨s.discarded.kind_ack, rfl⟩
  · exact ⟨s.kind_ack, hs⟩

end Acceptance

/-- Settles O23: the rows of the table, one command after the other. -/
theorem streamStateDecidesAcceptance : Obligations.StreamStateDecidesAcceptance := by
  intro s t i _ h ack err nak count
  cases i with
  | nop =>
    obtain rfl := Host.Outcome.next.inj h
    exact ⟨fun hs => ⟨s.kind_ack, hs⟩, fun hs => ⟨s.kind_ack, hs⟩⟩
  | rst =>
    obtain rfl := Host.Outcome.next.inj h
    exact ⟨fun _ => ⟨s.resetBlock.kind_ack, rfl, rfl⟩, fun _ => ⟨s.resetBlock.kind_ack, rfl, rfl⟩⟩
  | wrcsr n v =>
    obtain ⟨hkind, hss⟩ := wrcsr_acceptance h
    refine ⟨fun hs => ⟨?_, hss.trans hs⟩, fun hs => ⟨hkind.trans (if_neg ?_), hss.trans hs⟩⟩
    · split
      next hn => exact hkind.trans (if_pos ⟨hs, hn⟩)
      next hn => exact hkind.trans (if_neg fun hc => hn hc.2)
    · simp [hs]
  | rdcsr n =>
    obtain ⟨hkind, hss⟩ := rdcsr_acceptance h
    have hanswer : if csrAssigned n then ack else nak := by
      split
      next hn => exact hkind.trans (if_pos hn)
      next hn => exact hkind.trans (if_neg hn)
    exact ⟨fun hs => ⟨hanswer, hss.trans hs⟩, fun hs => ⟨hanswer, hss.trans hs⟩⟩
  | check =>
    obtain ⟨⟨ho, hkind⟩ | ⟨hc, hkind⟩, hss⟩ := check_acceptance h
    · exact ⟨fun hs => absurd hs (by simp [ho]), fun hs => ⟨hkind, hss.trans hs⟩⟩
    · exact ⟨fun hs => ⟨hkind, hss.trans hs⟩, fun hs => absurd hs (by simp [hc])⟩
  | openStream =>
    rcases openStream_acceptance h with ⟨ho, hanswer⟩ | ⟨hc, hanswer⟩
    · exact ⟨fun hs => absurd hs (by simp [ho]), fun _ => hanswer⟩
    · exact ⟨fun _ => hanswer, fun hs => absurd hs (by simp [hc])⟩
  | push i q =>
    obtain ⟨⟨hc, hkind⟩ | ⟨ho, hkind, hcount⟩, hss⟩ := push_acceptance h
    · exact ⟨fun hs => ⟨hkind, hss.trans hs⟩, fun hs => absurd hs (by simp [hc])⟩
    · exact ⟨fun hs => absurd hs (by simp [ho]), fun hs => ⟨hkind, hcount, hss.trans hs⟩⟩
  | closeStream =>
    obtain ⟨hkind, hss⟩ := closeStream_acceptance h
    refine ⟨fun hs => ⟨hkind, ?_, hss⟩, fun _ => ⟨hkind, hss⟩⟩
    obtain rfl := Host.Outcome.next.inj ((exec_closeStream_closed hs).symm.trans h)
    rfl

/-! ## Errors (R281, R290) -/

/-- Only the two commands that judge the configuration answer `ERR`. -/
theorem judging_of_kind_err {s t : State} {i : Instr} (h : exec i s = .next t)
    (herr : t.kind = 1#2) : i = .check ∨ i = .openStream := by
  cases i with
  | check => exact .inl rfl
  | openStream => exact .inr rfl
  | nop => obtain rfl := Host.Outcome.next.inj h; simp at herr
  | rst => obtain rfl := Host.Outcome.next.inj h; simp at herr
  | wrcsr n v =>
    obtain ⟨hkind, -⟩ := wrcsr_acceptance h
    rw [herr] at hkind
    split at hkind <;> cases hkind
  | rdcsr n =>
    obtain ⟨hkind, -⟩ := rdcsr_acceptance h
    rw [herr] at hkind
    split at hkind <;> cases hkind
  | push i q =>
    obtain ⟨⟨-, hkind⟩ | ⟨-, hkind, -⟩, -⟩ := push_acceptance h
    all_goals rw [herr] at hkind; cases hkind
  | closeStream =>
    obtain ⟨hkind, -⟩ := closeStream_acceptance h
    rw [herr] at hkind
    cases hkind

/-- A command that answers `ERR` has done what `CHECK` does: an accepted configuration is answered
`ACK` by `OPEN`. -/
theorem eq_checkWith_of_kind_err {s t : State} {i : Instr} (h : exec i s = .next t)
    (herr : t.kind = 1#2) : t = checkWith params s := by
  rcases judging_of_kind_err h herr with rfl | rfl
  · exact (Host.Outcome.next.inj h).symm
  · obtain rfl := Host.Outcome.next.inj h
    refine openWith_eq_checkWith fun hj => ?_
    rcases openWith_cases params s with
      ⟨-, heq⟩ | ⟨-, -, heq⟩ | ⟨-, -, heq⟩ | ⟨-, c, hc, hc', -⟩
    · simp [heq] at herr
    · simp [heq] at herr
    · simp [heq] at herr
    · exact hc (Verdict.status.inj (hc'.symm.trans hj))

/-- A command that answers `ERR` has raised the code of the verdict in a closed block. -/
theorem raise_of_kind_err {s t : State} {i : Instr} (h : exec i s = .next t)
    (herr : t.kind = 1#2) :
    s.ss = .closed ∧ ∃ c, c ≠ .ok ∧ judge documentConsts s = .status c ∧ t = s.raise c := by
  obtain rfl := eq_checkWith_of_kind_err h herr
  rcases checkWith_cases params s with
    ⟨-, heq⟩ | ⟨-, -, heq⟩ | ⟨-, -, heq⟩ | ⟨hs, c, hc, hj, heq⟩ <;> rw [heq] at herr ⊢
  · simp at herr
  · simp at herr
  · simp at herr
  · exact ⟨hs, c, hc, hj, rfl⟩

/-- Settles O28: the code raised is the verdict's, and the verdict says what it has found. -/
theorem errorWritesOnlyStatus : Obligations.ErrorWritesOnlyStatus := by
  intro s t i h herr
  obtain ⟨hs, c, hc, hj, rfl⟩ := raise_of_kind_err h herr
  refine ⟨judging_of_kind_err h herr, hs, ?_⟩
  rw [raise_eq]
  rcases judge_error hj hc with ⟨rfl, hfs⟩ | ⟨rfl, hrate⟩ | ⟨rfl, hnch⟩
  · exact .inl ⟨rfl, hfs⟩
  · exact .inr (.inl ⟨rfl, hrate⟩)
  · exact .inr (.inr ⟨rfl, hnch⟩)

end Sys2Proof.Machine
end

section
/-! A new stream after `CLOSE`: O25 (spec/47_facade_commands.md R257, R259). -/

namespace Sys2Proof.Machine

theorem State.sameBlock.symm {s t : State} (h : s.sameBlock t) : t.sameBlock s := by
  unfold State.sameBlock at h ⊢
  rw [← h]

theorem State.sameBlock.trans {s t u : State} (hst : s.sameBlock t) (htu : t.sameBlock u) :
    s.sameBlock u := by
  unfold State.sameBlock at hst htu ⊢
  rw [← hst] at htu
  exact htu

/-- The two states hold the same configuration CSRs (R26). -/
structure State.SameConfig (s u : State) : Prop where
  fmt : s.fmt = u.fmt
  fs : s.fs = u.fs
  nch : s.nch = u.nch
  width : s.width = u.width
  lpfen : s.lpfen = u.lpfen

section SameConfig
variable {s u : State}

/-- The verdict reads the configuration CSRs only. -/
theorem State.SameConfig.judge_eq (h : s.SameConfig u) (K : Consts F64) :
    judge K s = judge K u := by
  simp only [judge, h.fmt, h.fs, h.nch, h.width]

/-- A stream just created has nothing of the block before but the configuration CSRs. -/
theorem State.SameConfig.opened_sameBlock (h : s.SameConfig u) (P : Params F64) :
    (s.opened P).sameBlock (u.opened P) := by
  simp only [State.sameBlock, State.opened, h.fmt, h.fs, h.nch, h.width, h.lpfen]

/-- What `CLOSE` leaves has the configuration of the block before. -/
theorem sameConfig_of_exec_closeStream {t : State} (h : exec .closeStream s = .next t) :
    t.SameConfig s := by
  rcases execClose_cases s with ⟨-, heq⟩ | ⟨-, heq⟩
  all_goals
    obtain rfl := Host.Outcome.next.inj (heq.symm.trans h)
    exact ⟨rfl, rfl, rfl, rfl, rfl⟩

end SameConfig

/-- A closed block after `OPEN` has created the stream of its configuration, or is closed still. -/
theorem exec_openStream_closed_cases {s t : State} (hs : s.ss = .closed)
    (h : exec .openStream s = .next t) :
    (judge documentConsts s = .status .ok ∧ t.sameBlock (s.opened params)) ∨
      (judge documentConsts s ≠ .status .ok ∧ t.ss = .closed) := by
  by_cases hj : judge documentConsts s = .status .ok
  · obtain rfl := Host.Outcome.next.inj ((exec_openStream_of_judge_ok hs hj).symm.trans h)
    exact .inl ⟨hj, rfl⟩
  · obtain rfl := Host.Outcome.next.inj h
    refine .inr ⟨hj, ?_⟩
    rcases openWith_cases params s with
      ⟨-, heq⟩ | ⟨-, -, heq⟩ | ⟨-, hok, heq⟩ | ⟨-, c, -, -, heq⟩ <;> rw [heq]
    · exact hs
    · exact hs
    · exact absurd hok hj
    · exact hs

theorem runInstrs_cons {i : Instr} {is : List Instr} {s t : State}
    (h : runInstrs (i :: is) s = .next t) : ∃ u, exec i s = .next u ∧ runInstrs is u = .next t := by
  unfold runInstrs at h
  cases hexec : exec i s with
  | next u => exact ⟨u, rfl, by simpa only [hexec] using h⟩
  | fault r => simp [hexec] at h
  | refused r => simp [hexec] at h

/-- `CLOSE` then `OPEN`, in terms of the configuration of the block before both. -/
theorem close_open_cases {s t : State} (h : runInstrs [.closeStream, .openStream] s = .next t) :
    (judge documentConsts s = .status .ok ∧ t.sameBlock (s.opened params)) ∨
      (judge documentConsts s ≠ .status .ok ∧ t.ss = .closed) := by
  obtain ⟨c, hclose, hrest⟩ := runInstrs_cons h
  obtain ⟨o, hopen, hnil⟩ := runInstrs_cons hrest
  obtain rfl := Host.Outcome.next.inj hnil
  obtain ⟨-, hc⟩ := closeStream_acceptance hclose
  have hconfig := sameConfig_of_exec_closeStream hclose
  rw [← hconfig.judge_eq documentConsts]
  exact (exec_openStream_closed_cases hc hopen).imp_left fun ⟨hj, hblock⟩ =>
    ⟨hj, hblock.trans (hconfig.opened_sameBlock params)⟩

/-- Settles O25: the verdict of `OPEN` and the stream it creates are functions of the configuration
CSRs, on which the two blocks agree. -/
theorem oldStreamCannotReachANewOne : Obligations.OldStreamCannotReachANewOne := by
  intro s u t v _ _ hfmt hfs hnch hwidth hlpfen hs hu ht
  have hconfig : s.SameConfig u := ⟨hfmt, hfs, hnch, hwidth, hlpfen⟩
  rcases close_open_cases hs with ⟨hj, htblock⟩ | ⟨-, hc⟩
  · rw [hconfig.judge_eq] at hj
    rcases close_open_cases hu with ⟨-, hvblock⟩ | ⟨hnot, -⟩
    · exact (htblock.trans (hconfig.opened_sameBlock params)).trans hvblock.symm
    · exact absurd hj hnot
  · rw [hc] at ht
    cases ht

end Sys2Proof.Machine
end
